-- ==== Sys2Proof/Word.lean ====
section
/-!
DEFINITION. The words of the block (00_scope.md R10, R11): bytes, 16-bit durations, 32-bit clock values.
Addition and subtraction of these types are the spec's `+32` and `-32`.
-/

namespace Sys2Proof

/-- A byte: the encoded state, `lastOut`, a frame byte (R10). -/
abbrev Byte := BitVec 8

/-- A duration in milliseconds, `DUR_W` = 16 bits (R6). -/
abbrev Duration := BitVec 16

/-- A clock value or an expiry, `CLK_W` = 32 bits (R6). -/
abbrev Word := BitVec 32

end Sys2Proof
end

