-- ==== Sys2Proof/Syntax.lean ====
section
/-!
DEFINITION. The operations of the block (00_scope.md R8; every row of spec/opcode_table.json), the events its
agents offer (R9, 30_encoding.md R81) and the main loop's phase (10_state.md R26).
-/

namespace Sys2Proof

/-- One constructor per row of spec/opcode_table.json. The five `prim…` constructors are the internal primitives,
which no agent triggers directly (R8): they have no encoding (R80). -/
inductive Instr where
  /-- ACTIVATE (R174): channel `c` = byte 0, duration `d` = bytes 2 and 1. -/
  | activate (c : Byte) (d : Duration)
  /-- DISCARD_SHORT (R175): a frame of fewer than three bytes; no operand is used. -/
  | discardShort
  /-- DISCARD_RANGE (R176): channel byte `c` out of range. -/
  | discardRange (c : Byte)
  /-- QUERY (R177). -/
  | query
  /-- POLL (R178). -/
  | poll
  /-- RENDER (R179). -/
  | render
  /-- RESET (R230). -/
  | reset
  /-- The primitive `activate(c, d)` (R100). -/
  | primActivate (c : Byte) (d : Duration)
  /-- The primitive `expired(now, e)` (R102). -/
  | primExpired (now e : Word)
  /-- The primitive `sweep(now)` (R104). -/
  | primSweep (now : Word)
  /-- The primitive `encode()` (R130). -/
  | primEncode
  /-- The primitive `shiftOut(b)` (R140). -/
  | primShiftOut (b : Byte)
deriving DecidableEq, Repr, Inhabited

/-- The rows of format PRIM, which name their rule only (R80). -/
def Instr.isPrimitive : Instr → Bool
  | .activate _ _ => false
  | .discardShort => false
  | .discardRange _ => false
  | .query => false
  | .poll => false
  | .render => false
  | .reset => false
  | .primActivate _ _ => true
  | .primExpired _ _ => true
  | .primSweep _ => true
  | .primEncode => true
  | .primShiftOut _ => true

/-- `phase`: what the main loop's next step is (R26). -/
inductive Phase where
  | poll
  | render
deriving DecidableEq, Repr, Inhabited

/-- What the agents of R9 offer to the block, one event a step (R57). -/
inductive Event where
  /-- The clock agent advances the clock by `δ` modulo 2^32 (R31). -/
  | clock (δ : Word)
  /-- The bus delivers a write transaction of these bytes, in arrival order (R70, R78). -/
  | write (bytes : List Byte)
  /-- The bus delivers a read request (R75). -/
  | read
  /-- The block makes the one internal step it has (R173): the pin event of the transfer in progress, else POLL or
  RENDER as `phase` says. -/
  | internal
  /-- A power cycle (R230). -/
  | power
deriving DecidableEq, Repr, Inhabited

end Sys2Proof
end

