-- ==== Sys2Proof/Config.lean ====
section
/-!
DEFINITION. What a build fixes (00_scope.md R6, R7, 10_state.md R24) and the free values of the model: what the
spec leaves open as 'any value' or 'a draw' (93_implementation_defined.md U1, U6, U7).
-/

namespace Sys2Proof

/-- The spec's two levels of description (43_command_responder.md R173, R185). DESIGN CHOICE (log 7): one machine
shows both; the level is fixed for a run. -/
inductive Level where
  /-- A transfer completes inside the step that starts it (R56, R174, R179). -/
  | step
  /-- A transfer is started by ACTIVATE or RENDER and advanced by PIN steps (R185). -/
  | pin
deriving DecidableEq, Repr, Inhabited

/-- The build-time constants (R6, R24), which no operation writes (R7), with the clock's value at reset. -/
structure Build where
  /-- `N`, the number of channels. -/
  n : Nat
  /-- `BIT_MAP`, the output bit position of each channel, channel 0 first. -/
  bitMap : List (BitVec 3)
  /-- `T0`, the clock value at reset (R31). -/
  t0 : Word
  /-- The level of description; the model's own (log 7). -/
  level : Level
deriving DecidableEq, Repr, Inhabited

/-- The reference build: `N = 4`, `BIT_MAP = [1, 2, 6, 7]` (R6). DESIGN CHOICE (log 1): `T0 = 0`, step level. -/
def Build.reference : Build := { n := 4, bitMap := [1, 2, 6, 7], t0 := 0, level := .step }

namespace Config

/-- The events that the environment offers before the block's next own step, drawn where `inbox` holds none: which agent
steps next, what the bus offers and how far the clock advances are open (R57, R204; U6, U7). A free value (log 5). It is
a list, so finitely many: the weak fairness of R180 (log 26). -/
opaque environment : Nat → List Event

/-- The external register's shift stage after a power cycle: any value (R32, R231; U1). A free value (log 4). -/
opaque powerUpShift : Nat → Byte

/-- The external register's storage stage after a power cycle: any value (R32, R231; U1). A free value (log 4). -/
opaque powerUpStorage : Nat → Byte

end Config

end Sys2Proof
end

