-- ==== Sys2Proof/WellFormed.lean ====
section
/-!
DEFINITION. Which builds are legal (00_scope.md R6, 10_state.md R24) and which operand values an operation's
selection admits (30_encoding.md R73).
-/

namespace Sys2Proof

/-- A legal build: 1 ≤ N ≤ 256 and one bit position per channel (R6, R24). A position is in 0..7 by its type. -/
def Build.wf (b : Build) : Bool :=
  decide (1 ≤ b.n) && decide (b.n ≤ 256) && decide (b.bitMap.length = b.n)

/-- What classification guarantees of an operation's operands in a build of `n` channels (R73): ACTIVATE has
`c < N`, DISCARD_RANGE has `c ≥ N`. The primitives are total in their operands (R101, R200). -/
def Instr.wf (n : Nat) : Instr → Bool
  | .activate c _ => decide (c.toNat < n)
  | .discardShort => true
  | .discardRange c => decide (n ≤ c.toNat)
  | .query => true
  | .poll => true
  | .render => true
  | .reset => true
  | .primActivate _ _ => true
  | .primExpired _ _ => true
  | .primSweep _ => true
  | .primEncode => true
  | .primShiftOut _ => true

end Sys2Proof
end

