-- ==== Sys2Proof/Decode.lean ====
section
/-!
DEFINITION. Which operation an event selects (30_encoding.md R70-R79), the encoder from an operation back to an
event that selects it, and the reading of the opcode table's packed words (R80).
-/

namespace Sys2Proof

/-- `{dhi, dlo}`: the duration of a frame, low byte first (R51, R71). -/
def durationOf (dlo dhi : Byte) : Duration := dhi ++ dlo

/-- The low byte of a duration, frame byte 1 (R70). -/
def durationLow (d : Duration) : Byte := d.extractLsb' 0 8

/-- The high byte of a duration, frame byte 2 (R70). -/
def durationHigh (d : Duration) : Byte := d.extractLsb' 8 8

/-- `classify(Frame)` (R73) in a build of `n` channels: length before range, bytes after the third ignored (R74). -/
def classify (n : Nat) : List Byte → Instr
  | c :: dlo :: dhi :: _ => if n ≤ c.toNat then .discardRange c else .activate c (durationOf dlo dhi)
  | [_, _] => .discardShort
  | [_] => .discardShort
  | [] => .discardShort

/-- The main-loop step that is enabled (R26, R173). -/
def mainLoopStep : Phase → Instr
  | .poll => .poll
  | .render => .render

/-- Why an event selects no operation. -/
inductive NoInstr where
  /-- The clock's advance by `δ` is the clock agent's own step (R31, R173); no row of the opcode table stands for
  it. -/
  | clockAdvance (δ : Word)
deriving DecidableEq, Repr

/-- The operation an event selects (R79), in a build of `n` channels with the main loop in phase `ph`. Every write
frame selects one (R73, R77): no frame is rejected. -/
def decode (n : Nat) (ph : Phase) : Event → Except NoInstr Instr
  | .write bytes => .ok (classify n bytes)
  | .read => .ok .query
  | .internal => .ok (mainLoopStep ph)
  | .power => .ok .reset
  | .clock δ => .error (.clockAdvance δ)

/-- An event that selects the operation (R70, R79); none for a primitive, which has no encoding (R80). A frame
carries exactly three bytes (R70). DESIGN CHOICE (log 14): a short frame is encoded as the empty one, and the
bytes that DISCARD_RANGE does not examine as zeros. -/
def encode : Instr → Option Event
  | .activate c d => some (.write [c, durationLow d, durationHigh d])
  | .discardShort => some (.write [])
  | .discardRange c => some (.write [c, 0, 0])
  | .query => some .read
  | .poll => some .internal
  | .render => some .internal
  | .reset => some .power
  | .primActivate _ _ => none
  | .primExpired _ _ => none
  | .primSweep _ => none
  | .primEncode => none
  | .primShiftOut _ => none

/-- The phase in which the operation's event selects it: POLL and RENDER are selected by `phase` (R79), every other
operation in both phases. -/
def Instr.selectedIn (ph : Phase) : Instr → Bool
  | .poll => ph == .poll
  | .render => ph == .render
  | .activate _ _ => true
  | .discardShort => true
  | .discardRange _ => true
  | .query => true
  | .reset => true
  | .primActivate _ _ => true
  | .primExpired _ _ => true
  | .primSweep _ => true
  | .primEncode => true
  | .primShiftOut _ => true

/-- The frame whose bytes, packed as R80 packs them (byte 0 the most significant), are the `nbits` bits of `w`:
`nbits / 8` bytes in arrival order (log 12). -/
def frameOfTableWord (nbits w : Nat) : List Byte :=
  (List.range (nbits / 8)).map fun k => BitVec.ofNat 8 (w >>> (8 * (nbits / 8 - 1 - k)))

/-- The operation that the decoder of the reference build, for which the table's match and mask are given (R80),
reads from a table word delivered as a write frame. -/
def decodeTableWord (nbits w : Nat) : Option Instr :=
  (decode Build.reference.n .poll (.write (frameOfTableWord nbits w))).toOption

end Sys2Proof
end

