-- ==== Sys2Proof/Machine/State.lean ====
section
/-!
DEFINITION. The block's state (10_state.md R20-R35), the external register behind its wires (R32), the clock input
(R31), and the model's own fields: the events to come, the counter of free values, the record of what is observed.
-/

namespace Sys2Proof.Machine

/-- An entry of the channel table (R20). -/
structure Chan where
  /-- Whether the channel is active (R21). -/
  active : Bool
  /-- The absolute clock value at or after which a sweep deactivates the channel (R22). -/
  expiry : Word
deriving DecidableEq, Repr, Inhabited

/-- A channel after reset (R35): inactive. DESIGN CHOICE (log 2): the expiry, to which the spec gives no value and
which no rule reads while the channel is inactive (R22), is 0. -/
def Chan.atReset : Chan := { active := false, expiry := 0 }

/-- The agent whose render started a transfer (R28). -/
inductive Owner where
  | main
  | bus
deriving DecidableEq, Repr, Inhabited

/-- `xfer`, the state of the output driver (R28). -/
inductive Xfer where
  | idle
  /-- Byte `b` is being transferred for `owner`; the next pin event is `e_k` of R141. -/
  | busy (owner : Owner) (b : Byte) (k : Fin 26)
deriving DecidableEq, Repr, Inhabited

/-- The three output wires (R29). -/
inductive Wire where
  | ser
  | srclk
  | rclk
deriving DecidableEq, Repr, Inhabited

/-- A write `Pin(p) <- v` of a level to a wire (R13). -/
structure PinWrite where
  wire : Wire
  level : Bool
deriving DecidableEq, Repr, Inhabited

/-- What an observer of the block sees (R186): writes to the wires, and reply bytes. -/
inductive Obs where
  | pin (p : PinWrite)
  | reply (v : Byte)
deriving DecidableEq, Repr, Inhabited

/-- What a primitive returned to its caller (R102, R104, R130). -/
inductive Ret where
  /-- Nothing yet, or a primitive that returns nothing. -/
  | none
  /-- The truth value of `expired`, or the flag `changed` of `sweep`. -/
  | flag (v : Bool)
  /-- The byte of `encode`. -/
  | byte (v : Byte)
deriving DecidableEq, Repr, Inhabited

/-- The reasons a step may stop with a fault: none. The block has no fault outcome and every operation is total
(R200), so the type has no constructor; nothing raises a fault (log 24). -/
inductive Fault where
deriving DecidableEq, Repr

/-- The reasons an instruction may be refused. -/
inductive Refusal where
  /-- Raised by an arm of `exec` whose instruction has no meaning yet; safe. No arm of this model raises it: every
  row of the opcode table has its meaning. -/
  | notModelled (mnemonic : String)
deriving DecidableEq, Repr

/-- The state of the machine. -/
@[ext]
structure State where
  /-- `N`, `BIT_MAP`, `T0` and the level of description; written by no operation (R7, R24). -/
  build : Build
  /-- `Chan[0..N-1]` (R20). -/
  chans : List Chan
  /-- `lastOut`, the byte most recently passed to the output driver (R25). -/
  lastOut : Byte
  /-- `phase` (R26). -/
  phase : Phase
  /-- `xfer` (R28). -/
  xfer : Xfer
  /-- The wire SER (R29). -/
  ser : Bool
  /-- The wire SRCLK (R29). -/
  srclk : Bool
  /-- The wire RCLK (R29). -/
  rclk : Bool
  /-- `S`, the external register's shift stage (R32). -/
  shiftStage : Byte
  /-- `Q`, the external register's storage stage, its visible outputs (R32, R152). -/
  storage : Byte
  /-- The clock input's present value, what `Now()` returns (R31, R13). -/
  clock : Word
  /-- The model's own (log 5): the events the environment offers next, oldest first; with none, a free list of them is
  drawn. -/
  inbox : List Event
  /-- The model's own (logs 4, 5): how many free values have been drawn. -/
  draws : Nat
  /-- The model's own (log 8): what has been observed, oldest first (R186). -/
  obs : List Obs
  /-- The model's own (log 9): a render has completed since reset (R183). -/
  rendered : Bool
  /-- The model's own (log 10): what the last primitive run as an instruction returned. -/
  ret : Ret
deriving DecidableEq, Repr, Inhabited

/-- The state right after reset in a given build (R35, R230). DESIGN CHOICE (log 3): the external register, whose
power-up value is any (R231), holds 0x00. -/
def State.resetOf (b : Build) : State where
  build := b
  chans := List.replicate b.n Chan.atReset
  lastOut := 0
  phase := .poll
  xfer := .idle
  ser := false
  srclk := false
  rclk := false
  shiftStage := 0
  storage := 0
  clock := b.t0
  inbox := []
  draws := 0
  obs := []
  rendered := false
  ret := .none

/-- The machine right after reset, in the reference build (R6, R35). -/
def State.reset : State := State.resetOf Build.reference

end Sys2Proof.Machine
end

