-- ==== Sys2Proof/Machine/Operands.lean ====
section
/-!
DEFINITION. How an operation's operands are read (30_encoding.md R71, R72) and what a channel index selects
(10_state.md R20, 20_memory.md R63).
-/

namespace Sys2Proof.Machine

/-- The duration operand, zero-extended to 32 bits; never sign-extended, never scaled (R71). -/
def durationOperand (d : Duration) : Word := d.setWidth 32

/-- The channel operand: byte 0 as an unsigned value (R72). -/
def channelOperand (c : Byte) : Nat := c.toNat

/-- `BIT_MAP[i]` (R24). DESIGN CHOICE (log 15): a channel with no entry, which no legal build has, has no position. -/
def bitPosition (b : Build) (i : Nat) : Option (BitVec 3) := b.bitMap[i]?

/-- `1 << k` as an 8-bit value (R11). -/
def outputBit (k : BitVec 3) : Byte := (1 : Byte) <<< k.toNat

end Sys2Proof.Machine
end

