-- ==== Sys2Proof/Machine/Flags.lean ====
section
/-!
DEFINITION. The block's flags: the `active` bits, what sets and clears them, and the flag `changed` of a sweep
(10_state.md R21, R30; 40_channel_timer_table.md R100-R104).
-/

namespace Sys2Proof.Machine

/-- `expired(now, e)`: the wraparound-safe comparison (R102, decision D5; log 16). -/
def expired (now e : Word) : Bool := decide ((now - e).toNat < 2 ^ 31)

/-- Whether a sweep at `now` deactivates the channel; an inactive channel's expiry is not consulted (R104, R22). -/
def Chan.due (now : Word) (ch : Chan) : Bool := ch.active && expired now ch.expiry

/-- One iteration of the loop of `sweep(now)` (R104), on the table and the flag `changed`. -/
def sweepChan (now : Word) (acc : List Chan × Bool) (i : Nat) : List Chan × Bool :=
  match acc.1[i]? with
  | some ch => if ch.due now then (acc.1.set i { ch with active := false }, true) else acc
  | none => acc

/-- The loop of `sweep(now)` over the channels `is`, in that order (R104, R105). -/
def sweepOver (now : Word) (is : List Nat) (chans : List Chan) : List Chan × Bool :=
  is.foldl (sweepChan now) (chans, false)

/-- `sweep(now)` over channels 0..n-1: the table after it and the flag `changed` (R104). -/
def sweepTable (now : Word) (n : Nat) (chans : List Chan) : List Chan × Bool :=
  sweepOver now (List.range n) chans

/-- One iteration of the loop of `encode()` (R130). -/
def encodeChan (b : Build) (chans : List Chan) (v : Byte) (i : Nat) : Byte :=
  match chans[i]?, bitPosition b i with
  | some ch, some k => if ch.active then v ||| outputBit k else v
  | _, _ => v

/-- The encoded state of a channel table (R130). -/
def encodeTable (b : Build) (chans : List Chan) : Byte :=
  (List.range b.n).foldl (encodeChan b chans) 0

/-- `encode()`: recomputed whenever it is needed, never stored (R34, R130). -/
def encodeState (s : State) : Byte := encodeTable s.build s.chans

end Sys2Proof.Machine
end

