-- ==== Sys2Proof/Machine/Ops.lean ====
section
/-!
DEFINITION. The shared operations: the channel table's writes (40_channel_timer_table.md), the wires and the external
register (42_serial_output_driver.md), the render procedure and a transfer's pin events (43_command_responder.md
R172, R185), the reply, the power cycle (70_reset_and_hazards.md R230).

The block takes no exception and returns from none (60_exceptions.md R200): entry to a callback saves no state and
return restores none (R205, R206), so there is no operation for either.
-/

namespace Sys2Proof.Machine

/-- `activate(c, d)` (R100): nothing for `c ≥ N` (R101); else the channel is active and expires `d` milliseconds
after the present clock value, modulo 2^32. -/
def activate (c : Byte) (d : Duration) (s : State) : State :=
  if s.build.n ≤ channelOperand c then s
  else
    { s with
      chans := s.chans.set (channelOperand c) { active := true, expiry := s.clock + durationOperand d } }

/-- `sweep(now)` on the table of the state (R104). -/
def sweep (now : Word) (s : State) : State :=
  { s with chans := (sweepTable now s.build.n s.chans).1 }

/-- The flag `changed` that `sweep(now)` returns (R104). -/
def sweepChanged (now : Word) (s : State) : Bool := (sweepTable now s.build.n s.chans).2

/-- The shift stage after a rising edge of SRCLK: `((S << 1) | SER)[7:0]` (R150, decision D10; log 18). -/
def shiftIn (stage : Byte) (bit : Bool) : Byte := (stage <<< 1) ||| (BitVec.ofBool bit).setWidth 8

/-- `Pin(p) <- v` (R13): the wire takes the level, the external register acts on a rising edge of SRCLK (R150) or of
RCLK (R151), and the write is observed (R186). -/
def drive (s : State) (p : PinWrite) : State :=
  match p.wire with
  | .ser => { s with ser := p.level, obs := s.obs ++ [.pin p] }
  | .srclk =>
    { s with
      srclk := p.level
      shiftStage := if p.level && !s.srclk then shiftIn s.shiftStage s.ser else s.shiftStage
      obs := s.obs ++ [.pin p] }
  | .rclk =>
    { s with
      rclk := p.level
      storage := if p.level && !s.rclk then s.shiftStage else s.storage
      obs := s.obs ++ [.pin p] }

/-- Event `e_k` of the transfer of `b` (R141). -/
def pinEvent (b : Byte) (k : Nat) : PinWrite :=
  if k = 24 then { wire := .rclk, level := true }
  else if k = 25 then { wire := .rclk, level := false }
  else if k % 3 = 0 then { wire := .ser, level := b.getLsbD (7 - k / 3) }
  else if k % 3 = 1 then { wire := .srclk, level := true }
  else { wire := .srclk, level := false }

/-- The events `e_0 .. e_25` of the transfer of `b`, in order (R141). -/
def pinEvents (b : Byte) : List PinWrite := (List.range 26).map (pinEvent b)

/-- Pin writes performed in order. -/
def driveAll (ps : List PinWrite) (s : State) : State := ps.foldl drive s

/-- `shiftOut(b)`: the 26 pin events, in order (R140). -/
def shiftOut (b : Byte) (s : State) : State := driveAll (pinEvents b) s

/-- `lastOut <- b`, at the start of a transfer (R172). -/
def setLastOut (b : Byte) (s : State) : State := { s with lastOut := b }

/-- The render procedure up to the end of its transfer (R172), at the step level. -/
def renderWhole (s : State) : State :=
  let b := encodeState s
  { shiftOut b (setLastOut b s) with rendered := true }

/-- The render procedure up to its transfer's start, at the pin level (R185). -/
def renderStart (o : Owner) (s : State) : State :=
  let b := encodeState s
  { setLastOut b s with xfer := .busy o b 0 }

/-- What ACTIVATE and RENDER do of the render procedure in their own step: all of it at the step level (R172), its
start at the pin level (R185). -/
def render (o : Owner) (s : State) : State :=
  match s.build.level with
  | .step => renderWhole s
  | .pin => renderStart o s

/-- The end of a transfer started by `o` (R185): the driver is idle, a render has completed, and the main loop's
transfer ends its RENDER. -/
def endTransfer (o : Owner) (s : State) : State :=
  { s with
    xfer := .idle
    rendered := true
    phase := match o with
      | .main => .poll
      | .bus => s.phase }

/-- PIN (R185): the next pin event of the transfer in progress; nothing when there is none (the step relation never
takes it then, R173). -/
def pinStep (s : State) : State :=
  match s.xfer with
  | .idle => s
  | .busy o b k =>
    if h : k.val < 25 then { drive s (pinEvent b k.val) with xfer := .busy o b ⟨k.val + 1, by omega⟩ }
    else endTransfer o (drive s (pinEvent b k.val))

/-- `Reply(v)` (R13): byte `v` is handed to the bus. -/
def reply (v : Byte) (s : State) : State := { s with obs := s.obs ++ [.reply v] }

/-- The three wires driven low, as RESET drives them (R230). -/
def driveLow (s : State) : State :=
  driveAll [⟨.ser, false⟩, ⟨.srclk, false⟩, ⟨.rclk, false⟩] s

/-- The block's registers at their reset values (R35, R230). -/
def resetRegisters (s : State) : State :=
  { s with
    chans := List.replicate s.build.n Chan.atReset
    lastOut := 0
    phase := .poll
    xfer := .idle }

/-- The surroundings after a power cycle: the clock restarts at `T0` (R230) and the external register holds any value
(R231): free values (log 4). The model's own records of the block since reset start again (logs 9, 10). -/
def powerUp (s : State) : State :=
  { s with
    clock := s.build.t0
    shiftStage := Config.powerUpShift s.draws
    storage := Config.powerUpStorage s.draws
    draws := s.draws + 1
    rendered := false
    ret := .none }

/-- A power cycle (R230). -/
def powerCycle (s : State) : State := powerUp (driveLow (resetRegisters s))

/-- What a primitive run as an instruction of its own returns to its caller (log 10). -/
def returning (r : Ret) (s : State) : State := { s with ret := r }

end Sys2Proof.Machine
end

