-- ==== Sys2Proof/Machine/Agents.lean ====
section
/-!
DEFINITION. The agents' side of a step (00_scope.md R9, 20_memory.md R57-R59, 43_command_responder.md R173): which
event comes next, whether it is enabled, the clock's advance, and the bus's offer of a frame.
-/

namespace Sys2Proof.Machine

/-- The events to come, oldest first: those of `inbox`; where it holds none, finitely many free ones and then the
block's own step (R57, U7; log 5), so that an enabled main-loop step is eventually taken (R180; log 26). -/
def State.coming (s : State) : List Event :=
  match s.inbox with
  | [] => Config.environment s.draws ++ [.internal]
  | e :: rest => e :: rest

/-- The event the environment offers next, the first of those to come; there always is one. -/
def State.nextEvent (s : State) : Event := s.coming.headD .internal

/-- The state with that event taken. -/
def State.takeEvent (s : State) : State :=
  { s with
    inbox := s.coming.tail
    draws := match s.inbox with
      | [] => s.draws + 1
      | _ :: _ => s.draws }

/-- The state with an event offered again: a held frame is not lost (R203). -/
def State.putBack (e : Event) (s : State) : State := { s with inbox := e :: s.inbox }

/-- What a step does with the event offered. -/
inductive Turn where
  /-- The event is enabled and takes place. -/
  | deliver
  /-- The block's internal step is the next pin event of the transfer in progress. -/
  | pin
  /-- The event is not enabled (R59, R173): it stays offered while the transfer's next pin event is taken. -/
  | hold
deriving DecidableEq, Repr

/-- The enabling conditions of R173, last column. While the driver is idle every event is enabled. During a transfer
write frames are held; a read request is held only during a transfer of the bus's. The clock and a power cycle are
always enabled. -/
def turn : Xfer → Event → Turn
  | .idle, _ => .deliver
  | .busy _ _ _, .clock _ => .deliver
  | .busy _ _ _, .power => .deliver
  | .busy _ _ _, .internal => .pin
  | .busy _ _ _, .write _ => .hold
  | .busy .main _ _, .read => .deliver
  | .busy .bus _ _, .read => .hold

/-- The clock agent's step: the value advances by `δ` modulo 2^32 and nothing else changes (R31, R109). -/
def advanceClock (δ : Word) (s : State) : State := { s with clock := s.clock + δ }

/-- A write frame offered as the very next event, with the driver idle so that it is not held (R173; log 13). -/
def State.offerFrame (bytes : List Byte) (s : State) : State :=
  { s with xfer := .idle, inbox := .write bytes :: s.inbox }

end Sys2Proof.Machine
end

