-- ==== Sys2Proof/Machine/Driver.lean ====
section
/-!
DEFINITION. The Serial Output Driver's primitive as an instruction (42_serial_output_driver.md).
-/

namespace Sys2Proof.Machine

/-- shiftOut (R140): the whole transfer; `lastOut` is its caller's to write (R172). -/
def execPrimShiftOut (b : Byte) (s : State) : Host.Outcome State Fault Refusal :=
  .next (returning .none (shiftOut b s))

end Sys2Proof.Machine
end

