-- ==== Sys2Proof/Machine/Encoder.lean ====
section
/-!
DEFINITION. The State Encoder's primitive as an instruction (41_state_encoder.md).
-/

namespace Sys2Proof.Machine

/-- encode (R130): combinational; no state of the block changes. -/
def execPrimEncode (s : State) : Host.Outcome State Fault Refusal :=
  .next (returning (.byte (encodeState s)) s)

end Sys2Proof.Machine
end

