-- ==== Sys2Proof/Machine/MainLoop.lean ====
section
/-!
DEFINITION. The main loop's two steps (43_command_responder.md R178, R179).
-/

namespace Sys2Proof.Machine

/-- POLL (R178): one sweep at the present clock value; `phase <- RENDER` iff a channel changed. -/
def execPoll (s : State) : Host.Outcome State Fault Refusal :=
  .next
    { sweep s.clock s with
      phase := if sweepChanged s.clock s then .render else s.phase }

/-- RENDER (R179): `render()`, then `phase <- POLL`; at the pin level the phase changes with the transfer's last pin
event (R185). -/
def execRender (s : State) : Host.Outcome State Fault Refusal :=
  match s.build.level with
  | .step => .next { render .main s with phase := .poll }
  | .pin => .next (render .main s)

end Sys2Proof.Machine
end

