-- ==== Sys2Proof/Machine/PowerCycle.lean ====
section
/-!
DEFINITION. RESET (70_reset_and_hazards.md R230).
-/

namespace Sys2Proof.Machine

/-- RESET (R230): a power cycle. No byte is transferred to the external register (R231). -/
def execReset (s : State) : Host.Outcome State Fault Refusal := .next (powerCycle s)

end Sys2Proof.Machine
end

