-- ==== Sys2Proof/Machine/Responder.lean ====
section
/-!
DEFINITION. The Command Responder's two handlers (43_command_responder.md R171-R177). Each meaning is total (R200);
when an operation is enabled is the step relation's matter (R173; log 11).
-/

namespace Sys2Proof.Machine

/-- ACTIVATE (R174): `activate(c, d)`, then `render()`; `phase` is left as it is. -/
def execActivate (c : Byte) (d : Duration) (s : State) : Host.Outcome State Fault Refusal :=
  .next (render .bus (activate c d s))

/-- DISCARD_SHORT (R175): no effect, nothing reported. -/
def execDiscardShort (s : State) : Host.Outcome State Fault Refusal := .next s

/-- DISCARD_RANGE (R176): no effect, nothing reported; the channel byte serves only to select it. -/
def execDiscardRange (_c : Byte) (s : State) : Host.Outcome State Fault Refusal := .next s

/-- QUERY (R177): the reply is `lastOut`; no state of the block changes. -/
def execQuery (s : State) : Host.Outcome State Fault Refusal := .next (reply s.lastOut s)

end Sys2Proof.Machine
end

