-- ==== Sys2Proof/Machine/Table.lean ====
section
/-!
DEFINITION. The primitives of the Channel Timer Table as instructions (40_channel_timer_table.md).
-/

namespace Sys2Proof.Machine

/-- activate (R100, R101). -/
def execPrimActivate (c : Byte) (d : Duration) (s : State) : Host.Outcome State Fault Refusal :=
  .next (returning .none (activate c d s))

/-- expired (R102): a predicate; no state of the block changes. -/
def execPrimExpired (now e : Word) (s : State) : Host.Outcome State Fault Refusal :=
  .next (returning (.flag (expired now e)) s)

/-- sweep (R104). -/
def execPrimSweep (now : Word) (s : State) : Host.Outcome State Fault Refusal :=
  .next (returning (.flag (sweepChanged now s)) (sweep now s))

end Sys2Proof.Machine
end

