-- ==== Sys2Proof/Machine/Dispatch.lean ====
section
/-! DEFINITION. The meaning of every operation of spec/opcode_table.json, one arm per row. -/

namespace Sys2Proof.Machine

def exec (i : Instr) (s : State) : Host.Outcome State Fault Refusal :=
  match i with
  | .activate c d => Sys2Proof.Machine.execActivate c d s
  | .discardShort => Sys2Proof.Machine.execDiscardShort s
  | .discardRange c => Sys2Proof.Machine.execDiscardRange c s
  | .query => Sys2Proof.Machine.execQuery s
  | .poll => Sys2Proof.Machine.execPoll s
  | .render => Sys2Proof.Machine.execRender s
  | .reset => Sys2Proof.Machine.execReset s
  | .primActivate c d => Sys2Proof.Machine.execPrimActivate c d s
  | .primExpired now e => Sys2Proof.Machine.execPrimExpired now e s
  | .primSweep now => Sys2Proof.Machine.execPrimSweep now s
  | .primEncode => Sys2Proof.Machine.execPrimEncode s
  | .primShiftOut b => Sys2Proof.Machine.execPrimShiftOut b s

end Sys2Proof.Machine
end

