-- ==== Sys2Proof/Machine/Step.lean ====
section
/-!
DEFINITION. One step of the machine (43_command_responder.md R173): the next event is delivered, or held while the
transfer in progress takes its next pin event.
-/

namespace Sys2Proof.Machine

/-- An enabled event takes place: the operation it selects, or the clock's advance. -/
def deliver (e : Event) (s : State) : Host.Outcome State Fault Refusal :=
  match decode s.build.n s.phase e with
  | .ok i => exec i s
  | .error (.clockAdvance δ) => .next (advanceClock δ s)

/-- One step. -/
def step (s : State) : Host.Outcome State Fault Refusal :=
  match turn s.xfer s.nextEvent with
  | .deliver => deliver s.nextEvent s.takeEvent
  | .pin => .next (pinStep s.takeEvent)
  | .hold => .next (pinStep (s.takeEvent.putBack s.nextEvent))

/-- The opcode table's word offered as a write frame, so that the very next step classifies and runs it (log 13). -/
def State.withFetchWord (s : State) (nbits w : Nat) : State := s.offerFrame (frameOfTableWord nbits w)

end Sys2Proof.Machine
end

