-- ==== Sys2Proof/Safety.lean ====
section
/-!
DEFINITION. The terms in which the block is judged: the invariants of a state between steps (43_command_responder.md
R183, 42_serial_output_driver.md R144, R153), the step-level reading of a pin-level state (R185), what a claim may not
tell apart (10_state.md R22), and the terms of a claim about runs (R180, R186).
-/

namespace Sys2Proof.Machine

/-- A legal build with one table entry per channel (R6, R20). -/
structure State.TableWf (s : State) : Prop where
  build : s.build.wf = true
  chans : s.chans.length = s.build.n

/-- Both clock wires are low, as they are between transfers (R144, R183(c)). -/
structure State.Quiet (s : State) : Prop where
  srclk : s.srclk = false
  rclk : s.rclk = false

/-- While no render is pending, `lastOut` is the encoded state (R183(a)). -/
def State.Coherent (s : State) : Prop := s.phase = .poll → s.lastOut = encodeState s

/-- Once a render has completed, the external register shows `lastOut` (R183(b)) and SER rests at its bit 0 (R144). -/
structure State.Shown (s : State) : Prop where
  storage : s.rendered = true → s.storage = s.lastOut
  ser : s.rendered = true → s.ser = s.lastOut.getLsbD 0

/-- How many of the eight shift pulses have risen before event `e_k` (R141). -/
def shiftsDone (k : Nat) : Nat := (k + 1) / 3

/-- The wires and the external register before event `e_k` of a transfer of `b` (R141, R150, R151, R153). -/
structure State.MidTransfer (s : State) (b : Byte) (k : Nat) : Prop where
  srclk : s.srclk = decide (k < 24 ∧ k % 3 = 2)
  rclk : s.rclk = decide (k = 25)
  ser : 1 ≤ k → s.ser = b.getLsbD (7 - (k - 1) / 3)
  shifted : ∀ i, i < shiftsDone k → i < 8 → s.shiftStage.getLsbD i = b.getLsbD (8 - shiftsDone k + i)
  latched : k = 25 → s.storage = b

/-- The output driver between steps: at rest, or inside a pin-level transfer of `lastOut`, which is then the encoded
state; a main-loop transfer has a render pending (R148, R183, R185). -/
def State.DriverWf (s : State) : Prop :=
  match s.xfer with
  | .idle => s.Quiet ∧ s.Shown
  | .busy o b k =>
    s.build.level = .pin ∧ b = s.lastOut ∧ s.lastOut = encodeState s ∧ (o = .main → s.phase = .render) ∧
      s.MidTransfer b k.val

/-- The invariant of the machine between steps. -/
structure State.Inv (s : State) : Prop where
  table : s.TableWf
  coherent : s.Coherent
  driver : s.DriverWf

/-- `k` pin events of the transfer in progress (R185). -/
def pinSteps : Nat → State → State
  | 0, s => s
  | k + 1, s => pinSteps k (pinStep s)

/-- The state once the transfer in progress has ended; 26 pin events end any transfer (R141). -/
def State.finished (s : State) : State := pinSteps 26 s

/-- The same state described at the step level. -/
def State.atStepLevel (s : State) : State := { s with build := { s.build with level := .step } }

/-- A pin-level state read as the step-level state its transfer leads to: the PIN steps grouped with the step that
started them (R185). -/
def State.grouped (s : State) : State := s.finished.atStepLevel

/-- The state without the record of observations. -/
def State.unobserved (s : State) : State := { s with obs := [] }

/-- Two channels no operation can tell apart: an inactive channel's expiry is unobservable (R22). -/
def Chan.Alike (a b : Chan) : Prop := a.active = b.active ∧ (a.active = true → a.expiry = b.expiry)

/-- Two states that differ at most in the expiries of inactive channels (R22). -/
def State.Alike (s t : State) : Prop :=
  List.Forall₂ Chan.Alike s.chans t.chans ∧ s = { t with chans := s.chans }

/-- Channel `i` is active (R15, R21). -/
def State.ActiveAt (s : State) (i : Nat) : Prop := ∃ ch, s.chans[i]? = some ch ∧ ch.active = true

/-- Channel `i` drives output bit `k` (R63). -/
def Drives (b : Build) (i k : Nat) : Prop := ∃ p, b.bitMap[i]? = some p ∧ p.toNat = k

/-! Runs, weak fairness and the poll latency (43_command_responder.md R180, R186; logs 21 and 26). -/

/-- A run: an infinite sequence of steps (R186). -/
def IsRun (r : Nat → State) : Prop := ∀ k, step (r k) = .next (r (k + 1))

/-- The main-loop agent has an enabled step: POLL or RENDER while the driver is idle (R173), the next pin event of the
transfer during one of its own (R185). During a transfer of the bus's it has none. -/
def State.MainLoopEnabled (s : State) : Prop := ∀ b k, s.xfer ≠ .busy .bus b k

/-- The step taken next is the block's own: POLL, RENDER or a pin event (R173). -/
def State.OwnStep (s : State) : Prop := s.nextEvent = .internal ∨ turn s.xfer s.nextEvent = .hold

/-- The step taken next is the main-loop agent's. -/
def State.MainLoopStep (s : State) : Prop := s.MainLoopEnabled ∧ s.OwnStep

/-- Weak fairness of the main-loop agent (R180): where it has an enabled step from some point on, it takes one. -/
def WeaklyFair (r : Nat → State) : Prop :=
  ∀ k, (∀ j, k ≤ j → (r j).MainLoopEnabled) → ∃ j, k ≤ j ∧ (r j).MainLoopStep

/-- The step taken next is POLL (R173, R178). -/
def State.PollNext (s : State) : Prop := s.xfer = .idle ∧ s.phase = .poll ∧ s.nextEvent = .internal

/-- The step taken next is an ACTIVATE of channel `i` (R73, R174). -/
def State.ActivatesNext (s : State) (i : Nat) : Prop :=
  ∃ bytes c d, s.nextEvent = .write bytes ∧ turn s.xfer s.nextEvent = .deliver ∧
    classify s.build.n bytes = .activate c d ∧ c.toNat = i

/-- From index `k` of a run until a state meets `stop`, the main loop is never kept waiting by a transfer of the bus's:
at the step level, where the driver is idle between steps (R28), or by premise. -/
def MainLoopFreeUntil (stop : State → Prop) (r : Nat → State) (k : Nat) : Prop :=
  ((r k).build.level = .step ∧ (r k).xfer = .idle) ∨
  ∀ j, k ≤ j → (∀ m, k ≤ m → m < j → ¬ stop (r m)) → (r j).MainLoopEnabled

/-- The milliseconds by which the step taken next advances the clock (R31). -/
def State.ticks (s : State) : Nat :=
  match s.nextEvent with
  | .clock δ => δ.toNat
  | _ => 0

/-- The milliseconds that elapse in the `n` steps of a run from index `k` on. -/
def elapsed (r : Nat → State) (k : Nat) : Nat → Nat
  | 0 => 0
  | n + 1 => elapsed r k n + (r (k + n)).ticks

/-- From index `k` of a run a POLL is taken before more than `latency` milliseconds have elapsed. `POLL_LATENCY` is OPEN
(R6, R180, D15): a claim takes it as this parameter, and the model gives it no value (log 21). -/
def PolledWithin (latency : Nat) (r : Nat → State) (k : Nat) : Prop :=
  ∀ n, latency < elapsed r k n → ∃ j, k ≤ j ∧ j < k + n ∧ (r j).PollNext

end Sys2Proof.Machine
end

