-- ==== Sys2Proof/Certificates/Slice0/Obligations.lean ====
section
/-!
DEFINITION. The statements for the provers. Each docstring names the rules of spec/ it rests on; a statement that
rests on one of the spec's own decisions or on a choice of the model's says so.
-/

open Sys2Proof Sys2Proof.Machine

/-! Decoding and encoding. -/

/-- 30_encoding.md R73 with R71 and R51: the classification of every frame, length before range, and the value of the
duration operand. -/
def Obligations.FrameClassification : Prop :=
  ∀ (n : Nat) (bytes : List Byte),
    (bytes.length < 3 → classify n bytes = .discardShort) ∧
    (∀ c dlo dhi rest, bytes = c :: dlo :: dhi :: rest →
      (n ≤ c.toNat → classify n bytes = .discardRange c) ∧
      (c.toNat < n → ∃ d, classify n bytes = .activate c d ∧
        (durationOperand d).toNat = dlo.toNat + 256 * dhi.toNat))

/-- 30_encoding.md R74, the spec's own decision D6 (log 17): bytes after the third have no effect. -/
def Obligations.LongFrameTailIgnored : Prop :=
  ∀ (n : Nat) (c dlo dhi : Byte) (rest : List Byte),
    classify n (c :: dlo :: dhi :: rest) = classify n [c, dlo, dhi]

/-- Decoding the event that encodes a well-formed operation gives the operation back, for every operation that has an
encoding and every operand value; POLL and RENDER in the phase that selects them (R79). The encoder is the model's
(log 14). -/
def Obligations.DecodeOfEncode : Prop :=
  ∀ (n : Nat) (ph : Phase) (i : Instr) (e : Event),
    i.wf n = true → i.selectedIn ph = true → encode i = some e → decode n ph e = .ok i

/-- No bit of a three-byte activation frame is dropped: encoding what it decodes to gives the frame back (R70). The
encoder is the model's (log 14). -/
def Obligations.EncodeOfActivationFrame : Prop :=
  ∀ (n : Nat) (bytes : List Byte) (c : Byte) (d : Duration),
    bytes.length = 3 → classify n bytes = .activate c d → encode (.activate c d) = some (.write bytes)

/-- Whatever an event decodes to is well formed, is selected in the present phase and is no primitive (R73, R79,
R80). -/
def Obligations.DecodedIsWellFormed : Prop :=
  ∀ (n : Nat) (ph : Phase) (e : Event) (i : Instr),
    decode n ph e = .ok i → i.wf n = true ∧ i.selectedIn ph = true ∧ i.isPrimitive = false

/-- The opcode table's match 0x000000 and mask 0xFC0000 of ACTIVATE select exactly the three-byte frames, packed as
R80 packs them, that the reference build decodes as ACTIVATE (R79, R80; log 12). -/
def Obligations.TableMaskSelectsActivate : Prop :=
  ∀ w : Nat, w < 2 ^ 24 →
    ((∃ c d, decodeTableWord 24 w = some (.activate c d)) ↔ w &&& 0xFC0000 = 0x000000)

/-- A few frames of the spec's vectors (95_test_vectors.md 2.1) decode to the operations they stand for. -/
def Obligations.VectorFramesDecode : Prop :=
  classify 4 [0x01, 0xE8, 0x03, 0xAA] = .activate 1 1000 ∧
  classify 4 [0x03, 0xFF, 0xFF] = .activate 3 65535 ∧
  classify 4 [0x04, 0x64, 0x00] = .discardRange 4 ∧
  classify 4 [0x04, 0x64] = .discardShort ∧
  classify 8 [0x07, 0x01, 0x00] = .activate 7 1

/-! The step. -/

/-- A step runs the decoded operation: an enabled event (R173) that selects an operation (R79) is taken and the
operation's meaning is the step. The event is the oldest of the inbox; into an empty inbox come finitely many free events
and then the block's own step (logs 5 and 26). -/
def Obligations.StepRunsDecodedOperation : Prop :=
  (∀ (s : State) (i : Instr),
    turn s.xfer s.nextEvent = .deliver → decode s.build.n s.phase s.nextEvent = .ok i →
      step s = exec i s.takeEvent) ∧
  (∀ (s : State) (e : Event) (rest : List Event), s.inbox = e :: rest →
    s.nextEvent = e ∧ s.takeEvent = { s with inbox := rest }) ∧
  (∀ s : State, s.inbox = [] →
    s.nextEvent :: s.takeEvent.inbox = Config.environment s.draws ++ [.internal] ∧
      s.takeEvent = { s with inbox := s.takeEvent.inbox, draws := s.draws + 1 })

/-- 60_exceptions.md R200: every operation completes in every state with every operand, and so does every step. -/
def Obligations.EveryOperationCompletes : Prop :=
  (∀ (i : Instr) (s : State), ∃ t, exec i s = .next t) ∧ (∀ s : State, ∃ t, step s = .next t)

/-- 10_state.md R31 and 40_channel_timer_table.md R109 (derived in the spec): the clock agent may always step, and the
passage of time alone changes no state but the clock. -/
def Obligations.ClockStepChangesOnlyClock : Prop :=
  ∀ (s : State) (δ : Word) (rest : List Event), s.inbox = .clock δ :: rest →
    step s = .next { s with inbox := rest, clock := s.clock + δ }

/-- 43_command_responder.md R185, PIN: the internal step during a transfer performs `e_k` and moves on; the last one
frees the driver and, for a main-loop transfer, ends RENDER. -/
def Obligations.InternalStepDuringTransferIsPin : Prop :=
  ∀ (s : State) (o : Owner) (b : Byte) (k : Fin 26) (rest : List Event),
    s.xfer = .busy o b k → s.inbox = .internal :: rest →
    ∃ t, step s = .next t ∧
      (∀ h : k.val < 25, t =
        { drive { s with inbox := rest } (pinEvent b k.val) with xfer := .busy o b ⟨k.val + 1, by omega⟩ }) ∧
      (k.val = 25 → t =
        { drive { s with inbox := rest } (pinEvent b 25) with
          xfer := .idle
          rendered := true
          phase := if o = .main then .poll else s.phase })

/-- 20_memory.md R59, the spec's own decision D9 (log 19): a write frame offered during a transfer is held, not lost,
while the transfer takes its next pin event; a read request is held during a bus transfer and served during a
main-loop one. -/
def Obligations.HeldEventsWaitForTransfer : Prop :=
  ∀ (s : State) (o : Owner) (b : Byte) (k : Fin 26) (rest : List Event), s.xfer = .busy o b k →
    (∀ bytes, s.inbox = .write bytes :: rest → step s = .next (pinStep s) ∧ (pinStep s).inbox = s.inbox) ∧
    (s.inbox = .read :: rest →
      (o = .bus → step s = .next (pinStep s) ∧ (pinStep s).inbox = s.inbox) ∧
      (o = .main → step s = exec .query { s with inbox := rest }))

/-- 20_memory.md R59 and 42_serial_output_driver.md R146 (log 19): a write frame held at event `e_k` waits exactly the
`26 - k` pin events left, the table and `lastOut` unchanged, and then runs as the step-level model says. -/
def Obligations.HeldFrameRunsAfterTransfer : Prop :=
  ∀ (s : State) (o : Owner) (b : Byte) (k : Fin 26) (bytes : List Byte) (rest : List Event),
    s.xfer = .busy o b k → s.inbox = .write bytes :: rest →
    ∃ t, Sys2Proof.core.run (26 - k.val) s = .next t ∧
      t.xfer = .idle ∧ t.inbox = s.inbox ∧ t.chans = s.chans ∧ t.lastOut = s.lastOut ∧ t.build = s.build ∧
      step t = exec (classify s.build.n bytes) { t with inbox := rest }

/-! The receive and request handlers. -/

/-- 43_command_responder.md R174, step level (rests on the spec's decisions D4 and D10, logs 16 and 18): ACTIVATE of a
channel in range replaces that channel's entry and no other, renders the whole table, shows it on the external
register, and changes nothing else. -/
def Obligations.ActivateAtStepLevel : Prop :=
  ∀ (c : Byte) (d : Duration) (s : State),
    s.build.level = .step → s.chans.length = s.build.n → s.Quiet → c.toNat < s.build.n →
    ∃ t, exec (.activate c d) s = .next t ∧
      t.chans[c.toNat]? = some { active := true, expiry := s.clock + d.setWidth 32 } ∧
      (∀ i, i ≠ c.toNat → t.chans[i]? = s.chans[i]?) ∧
      t.lastOut = encodeState t ∧ t.storage = t.lastOut ∧ t.shiftStage = t.lastOut ∧
      t.Quiet ∧ t.ser = t.lastOut.getLsbD 0 ∧
      t =
        { s with
          chans := t.chans
          lastOut := t.lastOut
          ser := t.ser
          srclk := t.srclk
          rclk := t.rclk
          shiftStage := t.shiftStage
          storage := t.storage
          rendered := true
          obs := s.obs ++ (pinEvents t.lastOut).map .pin }

/-- 43_command_responder.md R185, pin level (the spec's decision D9, log 19): ACTIVATE of a channel in range writes the
table and `lastOut` and starts the transfer; the wires, the external register and everything else are unchanged. -/
def Obligations.ActivateAtPinLevel : Prop :=
  ∀ (c : Byte) (d : Duration) (s : State),
    s.build.level = .pin → s.chans.length = s.build.n → c.toNat < s.build.n →
    ∃ t, exec (.activate c d) s = .next t ∧
      t.chans[c.toNat]? = some { active := true, expiry := s.clock + d.setWidth 32 } ∧
      (∀ i, i ≠ c.toNat → t.chans[i]? = s.chans[i]?) ∧
      t.lastOut = encodeState t ∧ t.xfer = .busy .bus t.lastOut 0 ∧
      t = { s with chans := t.chans, lastOut := t.lastOut, xfer := t.xfer }

/-- 43_command_responder.md R181: every ACTIVATE performs all 26 pin events of the byte it renders, whether or not the byte
changed. At the pin level its 26 PIN steps do so: R185, the spec's own decision D9 (log 19). That the meaning answers
likewise for a channel byte out of range and for any state of the driver, where the step relation takes no ACTIVATE, is
the model's choice (log 11). -/
def Obligations.EveryActivateTransfersFully : Prop :=
  ∀ (c : Byte) (d : Duration) (s : State),
    ∃ t, exec (.activate c d) s = .next t ∧ t.lastOut = encodeState t ∧
      (s.build.level = .step → t.obs = s.obs ++ (pinEvents t.lastOut).map .pin) ∧
      (s.build.level = .pin → t.xfer = .busy .bus t.lastOut 0 ∧
        t.finished.xfer = .idle ∧ t.finished.obs = s.obs ++ (pinEvents t.lastOut).map .pin)

/-- 43_command_responder.md R175 and R176: a frame that is short or out of range is discarded; no state of the block
changes and no pin event occurs. -/
def Obligations.DiscardedFramesLeaveNoTrace : Prop :=
  (∀ s : State, exec .discardShort s = .next s) ∧
  (∀ (c : Byte) (s : State), exec (.discardRange c) s = .next s) ∧
  (∀ (s : State) (bytes : List Byte) (rest : List Event),
    s.xfer = .idle → s.inbox = .write bytes :: rest →
    (bytes.length < 3 ∨ ∃ c dlo dhi more, bytes = c :: dlo :: dhi :: more ∧ s.build.n ≤ c.toNat) →
      step s = .next { s with inbox := rest })

/-- 43_command_responder.md R177, QUERY: the reply is `lastOut`; nothing else changes. The reply is recorded in `obs`
(log 8). -/
def Obligations.QueryRepliesLastOut : Prop :=
  ∀ s : State, exec .query s = .next { s with obs := s.obs ++ [.reply s.lastOut] }

/-! The main loop and the power cycle. -/

/-- 43_command_responder.md R178 and 40_channel_timer_table.md R104 (the comparison is the spec's decision D5, log 16):
POLL clears exactly the active channels that have expired, keeps every expiry, and owes a render iff it cleared
one. -/
def Obligations.PollSweepsAndOwesRender : Prop :=
  ∀ s : State, ∃ t, exec .poll s = .next t ∧
    t.chans.length = s.chans.length ∧
    (∀ (i : Nat) (ch : Chan), s.chans[i]? = some ch →
      t.chans[i]? = some
        (if i < s.build.n ∧ ch.active = true ∧ expired s.clock ch.expiry = true
          then { ch with active := false } else ch)) ∧
    ((∃ i ch, i < s.build.n ∧ s.chans[i]? = some ch ∧ ch.active = true ∧ expired s.clock ch.expiry = true) →
      t.phase = .render) ∧
    ((∀ i ch, i < s.build.n → s.chans[i]? = some ch → ¬ (ch.active = true ∧ expired s.clock ch.expiry = true)) →
      t = s) ∧
    t = { s with chans := t.chans, phase := t.phase }

/-- 43_command_responder.md R179, step level (rests on D10, log 18): RENDER encodes the table as it is, shows it, and
returns the main loop to POLL. -/
def Obligations.RenderAtStepLevel : Prop :=
  ∀ s : State, s.build.level = .step → s.Quiet →
    ∃ t, exec .render s = .next t ∧ t.phase = .poll ∧
      t.lastOut = encodeState s ∧ t.storage = t.lastOut ∧ t.shiftStage = t.lastOut ∧
      t.Quiet ∧ t.ser = t.lastOut.getLsbD 0 ∧
      t =
        { s with
          lastOut := t.lastOut
          phase := .poll
          ser := t.ser
          srclk := t.srclk
          rclk := t.rclk
          shiftStage := t.shiftStage
          storage := t.storage
          rendered := true
          obs := s.obs ++ (pinEvents t.lastOut).map .pin }

/-- 43_command_responder.md R185, pin level (D9, log 19): RENDER writes `lastOut` and starts the transfer. -/
def Obligations.RenderAtPinLevel : Prop :=
  ∀ s : State, s.build.level = .pin →
    exec .render s = .next { s with lastOut := encodeState s, xfer := .busy .main (encodeState s) 0 }

/-- 70_reset_and_hazards.md R230 (the values of the spec's decisions D7, D9, D12, D19, log 20): after RESET every
channel is inactive, the registers and wires hold their reset values, the clock reads `T0`, the only writes to the wires
were to low, and the build is kept. The external register and the expiries may hold anything (R231, R22). That the
events to come are kept and the record of observations is continued is the model's choice (log 23). -/
def Obligations.ResetRestoresInitialRegisters : Prop :=
  ∀ s : State, ∃ t, exec .reset s = .next t ∧
    t.chans.length = s.build.n ∧ (∀ i, ¬ t.ActiveAt i) ∧
    t.lastOut = 0 ∧ t.phase = .poll ∧ t.xfer = .idle ∧
    t.ser = false ∧ t.srclk = false ∧ t.rclk = false ∧ t.clock = s.build.t0 ∧
    t.build = s.build ∧ t.inbox = s.inbox ∧ t.rendered = false ∧
    t.obs = s.obs ++ [.pin ⟨.ser, false⟩, .pin ⟨.srclk, false⟩, .pin ⟨.rclk, false⟩]

/-- 70_reset_and_hazards.md R231 (derived in the spec), 40_channel_timer_table.md R104: with no channel active a POLL
changes nothing, so it owes no render. -/
def Obligations.PollWithNothingActiveChangesNothing : Prop :=
  ∀ s : State, (∀ i, i < s.build.n → ¬ s.ActiveAt i) → exec .poll s = .next s

/-! The primitives. Where one returns a value, `ret` holds it (log 10). -/

/-- 40_channel_timer_table.md R100 (the addition's width is the spec's decision D4, log 16): the primitive activate, in
range and out of range. -/
def Obligations.PrimitiveActivateWritesItsChannel : Prop :=
  ∀ (c : Byte) (d : Duration) (s : State), s.chans.length = s.build.n →
    ∃ t, exec (.primActivate c d) s = .next t ∧ t = { s with chans := t.chans, ret := .none } ∧
      (c.toNat < s.build.n →
        t.chans[c.toNat]? = some { active := true, expiry := s.clock + d.setWidth 32 } ∧
        ∀ i, i ≠ c.toNat → t.chans[i]? = s.chans[i]?) ∧
      (s.build.n ≤ c.toNat → t.chans = s.chans)

/-- 40_channel_timer_table.md R101: out of range, activate changes nothing, and no frame ever reaches it so. -/
def Obligations.ActivateOutOfRangeIsNoOp : Prop :=
  (∀ (c : Byte) (d : Duration) (s : State), s.build.n ≤ c.toNat → activate c d s = s) ∧
  (∀ (n : Nat) (bytes : List Byte) (c : Byte) (d : Duration), classify n bytes = .activate c d → c.toNat < n)

/-- 40_channel_timer_table.md R102, the spec's own decision D5 (log 16): the primitive expired answers that the 32-bit
difference, read as a signed value, is not negative, and changes nothing else. -/
def Obligations.PrimitiveExpiredIsSignedComparison : Prop :=
  ∀ (now e : Word) (s : State),
    exec (.primExpired now e) s = .next { s with ret := .flag (decide (0 ≤ (now - e).toInt)) }

/-- 40_channel_timer_table.md R104 (with the comparison of D5, log 16): the primitive sweep clears exactly the expired
active channels, returns whether there was one, and changes nothing else. -/
def Obligations.PrimitiveSweepClearsExpired : Prop :=
  ∀ (now : Word) (s : State), ∃ t changed, exec (.primSweep now) s = .next t ∧
    t = { s with chans := t.chans, ret := .flag changed } ∧ t.chans.length = s.chans.length ∧
    (∀ (i : Nat) (ch : Chan), s.chans[i]? = some ch →
      t.chans[i]? = some
        (if i < s.build.n ∧ ch.active = true ∧ expired now ch.expiry = true
          then { ch with active := false } else ch)) ∧
    (changed = true ↔
      ∃ i ch, i < s.build.n ∧ s.chans[i]? = some ch ∧ ch.active = true ∧ expired now ch.expiry = true)

/-- 41_state_encoder.md R130 and R132 (derived in the spec): the primitive encode returns the byte whose bit `k` says
whether some active channel drives it, and changes nothing else. -/
def Obligations.PrimitiveEncodeReturnsActiveBits : Prop :=
  ∀ s : State, ∃ v : Byte, exec .primEncode s = .next { s with ret := .byte v } ∧
    ∀ k, k < 8 → (v.getLsbD k = true ↔ ∃ i, i < s.build.n ∧ s.ActiveAt i ∧ Drives s.build i k)

/-- 42_serial_output_driver.md R149, with R144 and R153 (derived in the spec; the external register is the spec's
decision D10, log 18): from quiet wires the primitive shiftOut shows its byte whatever the external register held, leaves
the clocks low and SER at bit 0, and changes nothing else. -/
def Obligations.PrimitiveShiftOutShowsByte : Prop :=
  ∀ (b : Byte) (s : State), s.Quiet →
    exec (.primShiftOut b) s = .next
      { s with
        ser := b.getLsbD 0
        srclk := false
        rclk := false
        shiftStage := b
        storage := b
        ret := .none
        obs := s.obs ++ (pinEvents b).map .pin }

/-! The channel table and the encoder. -/

/-- 41_state_encoder.md R131: with no channel active the encoded state is 0x00. -/
def Obligations.NothingActiveEncodesToZero : Prop :=
  ∀ s : State, (∀ i, i < s.build.n → ¬ s.ActiveAt i) → encodeState s = 0x00

/-- 41_state_encoder.md R134: the encoded state is a function of the `active` bits alone, and encoding changes no state
of the block. -/
def Obligations.EncodedStateDependsOnActiveBitsOnly : Prop :=
  (∀ s t : State, s.build = t.build → s.chans.map Chan.active = t.chans.map Chan.active →
    encodeState s = encodeState t) ∧
  (∀ s t : State, exec .primEncode s = .next t → t = { s with ret := t.ret })

/-- 40_channel_timer_table.md R105 (derived in the spec): the order in which a sweep visits the channels does not change
its result. -/
def Obligations.SweepOrderDoesNotMatter : Prop :=
  ∀ (now : Word) (n : Nat) (is : List Nat) (chans : List Chan),
    is.Perm (List.range n) → sweepOver now is chans = sweepTable now n chans

/-- 40_channel_timer_table.md R103 (derived in the spec from D4 and D5, log 16): a channel activated at `t` for `d` is
found expired at `t'` iff `d ≤ Δ < d + 2^31` with `Δ = t' -32 t`. -/
def Obligations.ExpiryHorizon : Prop :=
  ∀ (t t' : Word) (d : Duration),
    expired t' (t + durationOperand d) = true ↔
      d.toNat ≤ (t' - t).toNat ∧ (t' - t).toNat < d.toNat + 2 ^ 31

/-- 40_channel_timer_table.md R106: re-activating a channel sets its expiry from the latest activation; the earlier
activation leaves no trace, so durations never accumulate. -/
def Obligations.ReactivationReplacesExpiry : Prop :=
  ∀ (c : Byte) (d₁ d₂ : Duration) (δ : Word) (s : State),
    activate c d₂ (advanceClock δ (activate c d₁ s)) = activate c d₂ (advanceClock δ s) ∧
    (s.chans.length = s.build.n → c.toNat < s.build.n →
      (activate c d₂ (advanceClock δ (activate c d₁ s))).chans[c.toNat]? =
        some { active := true, expiry := s.clock + δ + d₂.setWidth 32 })

/-- 40_channel_timer_table.md R107 (derived in the spec): a duration of 0 activates the channel, and the first sweep
within the horizon, one at the same clock value included, deactivates it. -/
def Obligations.ZeroDurationEndsAtFirstSweep : Prop :=
  ∀ (c : Byte) (s : State) (t' : Word),
    s.chans.length = s.build.n → c.toNat < s.build.n → (t' - s.clock).toNat < 2 ^ 31 →
    (activate c 0 s).ActiveAt c.toNat ∧
    ¬ (sweep t' (activate c 0 s)).ActiveAt c.toNat ∧ sweepChanged t' (activate c 0 s) = true

/-! The serial output driver. -/

/-- 20_memory.md R52: bit 7 is the first bit written to SER and bit 0 the last. -/
def Obligations.BitsGoOutMostSignificantFirst : Prop :=
  ∀ b : Byte,
    (pinEvents b).filterMap (fun p => if p.wire = .ser then some p.level else none) =
      [b.getLsbD 7, b.getLsbD 6, b.getLsbD 5, b.getLsbD 4, b.getLsbD 3, b.getLsbD 2, b.getLsbD 1, b.getLsbD 0]

/-- 42_serial_output_driver.md R143: of the 26 events exactly one raises RCLK and one lowers it, after all eight shift
pulses. The exact places, SRCLK rising at `e_1, e_4, ..` and falling at `e_2, e_5, ..`, RCLK rising at `e_24` and falling
at `e_25`, are those of R141, whose order within a bit is the spec's own decision D10 (log 18). -/
def Obligations.OneLatchPulseAfterEightShifts : Prop :=
  ∀ b : Byte,
    (pinEvents b).length = 26 ∧
    (List.range 26).filter (fun k => decide (pinEvent b k = ⟨.rclk, true⟩)) = [24] ∧
    (List.range 26).filter (fun k => decide (pinEvent b k = ⟨.rclk, false⟩)) = [25] ∧
    (List.range 26).filter (fun k => decide (pinEvent b k = ⟨.srclk, true⟩)) = [1, 4, 7, 10, 13, 16, 19, 22] ∧
    (List.range 26).filter (fun k => decide (pinEvent b k = ⟨.srclk, false⟩)) = [2, 5, 8, 11, 14, 17, 20, 23]

/-- 42_serial_output_driver.md R142 (derived in the spec from D10, log 18): whenever an event of a transfer writes SER,
both clocks are low. -/
def Obligations.SerMovesOnlyWhileClocksLow : Prop :=
  ∀ (b : Byte) (s : State) (k : Nat), s.Quiet → k < 26 → (pinEvent b k).wire = .ser →
    (driveAll ((pinEvents b).take k) s).Quiet

/-- 42_serial_output_driver.md R147: the visible output changes only at event `e_24`, all at once, and equals the byte
from then on. -/
def Obligations.OutputChangesOnlyAtLatch : Prop :=
  ∀ (b : Byte) (s : State) (k : Nat), s.Quiet →
    (k ≤ 24 → (driveAll ((pinEvents b).take k) s).storage = s.storage) ∧
    (25 ≤ k → (driveAll ((pinEvents b).take k) s).storage = b)

/-- 70_reset_and_hazards.md R236 (derived in the spec): were a transfer of `a` interrupted after `k` shift pulses by a
whole transfer of `b` and then finished, the external register would show the torn value. The block's hold excludes
it (TransfersNeverInterleave). -/
def Obligations.TornOutputFormula : Prop :=
  ∀ (a b : Byte) (k : Nat) (s : State), s.Quiet → k ≤ 8 →
    (driveAll ((pinEvents a).drop (3 * k)) (shiftOut b (driveAll ((pinEvents a).take (3 * k)) s))).storage =
      (b <<< (8 - k)) ||| (a &&& BitVec.ofNat 8 (2 ^ (8 - k) - 1))

/-! Whole-machine rules. -/

/-- Every step keeps the invariant of Safety.lean, at both levels: a legal build and a table of N entries (R6, R20),
`lastOut = encode()` while no render is owed, the external register showing `lastOut` once a render has completed, the
clocks low (R183), and during a transfer the wires and the shift stage as the events so far leave them (R153). -/
def Obligations.StepKeepsInvariant : Prop :=
  ∀ s t : State, s.Inv → step s = .next t → t.Inv

/-- The invariant holds at reset, in every legal build and in the reference build (R35, R183). -/
def Obligations.ResetMeetsInvariant : Prop :=
  (∀ b : Build, b.wf = true → (State.resetOf b).Inv) ∧ State.reset.Inv

/-- 00_scope.md R7: no operation and no step writes `N` or `BIT_MAP` (nor the build's other constants). -/
def Obligations.BuildIsImmutable : Prop :=
  (∀ (i : Instr) (s t : State), exec i s = .next t → t.build = s.build) ∧
  (∀ s t : State, step s = .next t → t.build = s.build)

/-- 43_command_responder.md R182 (derived in the spec): while no render is owed a QUERY replies the encoded state; it can
reply another byte only in the window before an owed render. -/
def Obligations.QueryIsStaleOnlyBeforeOwedRender : Prop :=
  ∀ s : State, s.Inv →
    (s.phase = .poll → exec .query s = .next { s with obs := s.obs ++ [.reply (encodeState s)] }) ∧
    (s.lastOut ≠ encodeState s → s.phase = .render)

/-- 10_state.md R22: the expiry of an inactive channel is unobservable. Two states that differ only there make steps
with the same observations to states that differ only there again; so no claim can rest on the expiry after reset, which
is the model's choice (log 2). -/
def Obligations.InactiveExpiriesAreUnobservable : Prop :=
  ∀ s s' t : State, s.Alike s' → step s = .next t → ∃ t', step s' = .next t' ∧ t.Alike t' ∧ t.obs = t'.obs

/-- 43_command_responder.md R185 (the spec's decision D9, log 19), for the operations: one enabled at the pin level (R173)
does, once its PIN steps are grouped with it, what the step level does; from an idle driver exactly so, and for a QUERY
or a power cycle during a transfer up to the order of what is observed. PinLevelStepsAreStepLevelSteps says the same of
whole steps, the hold, the PIN step and the clock's advance among them. -/
def Obligations.PinLevelRefinesStepLevel : Prop :=
  ∀ (i : Instr) (s t : State), s.build.level = .pin → i.isPrimitive = false →
    (s.xfer = .idle ∨ i = .query ∨ i = .reset) → exec i s = .next t →
    ∃ u, exec i s.grouped = .next u ∧ u.unobserved = t.grouped.unobserved ∧ (s.xfer = .idle → u = t.grouped)

/-- 43_command_responder.md R185: a PIN step leaves the grouped state as it is, so that at the step level it is no step
at all; after at most 26 of them the driver is idle. -/
def Obligations.PinStepsAreInvisibleWhenGrouped : Prop :=
  ∀ s : State, (pinStep s).grouped = s.grouped ∧ s.finished.xfer = .idle

/-- 42_serial_output_driver.md R148 (derived in the spec from D9, log 19): during a transfer only its own next pin event
moves a wire or the external register; any other step leaves the transfer where it is, and only a power cycle ends it
early. -/
def Obligations.TransfersNeverInterleave : Prop :=
  ∀ (s t : State) (o : Owner) (b : Byte) (k : Fin 26), s.xfer = .busy o b k → step s = .next t →
    s.nextEvent = .power ∨
    (t.xfer = s.xfer ∧ t.ser = s.ser ∧ t.srclk = s.srclk ∧ t.rclk = s.rclk ∧
      t.shiftStage = s.shiftStage ∧ t.storage = s.storage ∧ t.lastOut = s.lastOut ∧ t.chans = s.chans) ∨
    ((∀ h : k.val < 25, t.xfer = .busy o b ⟨k.val + 1, by omega⟩) ∧ (k.val = 25 → t.xfer = .idle) ∧
      t.ser = (drive s (pinEvent b k.val)).ser ∧ t.srclk = (drive s (pinEvent b k.val)).srclk ∧
      t.rclk = (drive s (pinEvent b k.val)).rclk ∧ t.shiftStage = (drive s (pinEvent b k.val)).shiftStage ∧
      t.storage = (drive s (pinEvent b k.val)).storage ∧ t.lastOut = s.lastOut ∧ t.chans = s.chans ∧
      t.obs = s.obs ++ [.pin (pinEvent b k.val)])

/-- 70_reset_and_hazards.md R237 (derived in the spec): at the pin level, after RENDER has started from quiet wires and up
to event `e_23`, a QUERY replies the new byte while the external register still shows the old one. -/
def Obligations.ReplyRunsAheadOfOutputs : Prop :=
  ∀ (s : State) (k : Nat), s.build.level = .pin → s.xfer = .idle → s.Quiet → k ≤ 24 →
    ∃ u, exec .render s = .next u ∧ (pinSteps k u).storage = s.storage ∧
      exec .query (pinSteps k u) =
        .next { pinSteps k u with obs := (pinSteps k u).obs ++ [.reply (encodeState s)] }

/-- 40_channel_timer_table.md R108: a channel becomes active only by an ACTIVATE of its own index, and inactive only by a
POLL that finds it expired or by a power cycle. -/
def Obligations.ChannelChangesOnlyAsLifecycleSays : Prop :=
  ∀ (s t : State) (i : Nat) (a a' : Chan), step s = .next t →
    s.chans[i]? = some a → t.chans[i]? = some a' →
    (a.active = false → a'.active = true →
      ∃ bytes c d, s.nextEvent = .write bytes ∧ classify s.build.n bytes = .activate c d ∧ c.toNat = i) ∧
    (a.active = true → a'.active = false →
      s.nextEvent = .power ∨
      (s.nextEvent = .internal ∧ s.xfer = .idle ∧ s.phase = .poll ∧ i < s.build.n ∧
        expired s.clock a.expiry = true))

/-- 10_state.md R26 and R27 (the spec's decision D19, log 20): no bus operation writes `phase`, at either level. -/
def Obligations.BusOperationsKeepPhase : Prop :=
  ∀ (i : Instr) (s t : State),
    ((∃ c d, i = .activate c d) ∨ i = .discardShort ∨ (∃ c, i = .discardRange c) ∨ i = .query) →
    exec i s = .next t → t.phase = s.phase

/-- 10_state.md R25: `lastOut` changes only to the byte being rendered, the encoded state of the state reached; after a
power cycle too (the spec's decision D7, log 20). -/
def Obligations.LastOutChangesOnlyToEncodedState : Prop :=
  ∀ s t : State, step s = .next t → t.lastOut = s.lastOut ∨ t.lastOut = encodeState t

/-- 43_command_responder.md R179 with R178 and R183 (log 18 for the external register): at the step level an iteration of
the main loop that finds a channel expired puts it out: after POLL and RENDER the outputs are the encoded state of a table
in which exactly the unexpired channels are still active. -/
def Obligations.ExpiredChannelsGoDarkInOneIteration : Prop :=
  ∀ (s : State) (rest : List Event) (i : Nat) (a : Chan),
    s.Inv → s.build.level = .step → s.phase = .poll → s.inbox = .internal :: .internal :: rest →
    i < s.build.n → s.chans[i]? = some a → a.active = true → expired s.clock a.expiry = true →
    ∃ t, Sys2Proof.core.run 2 s = .next t ∧ t.inbox = rest ∧ t.phase = .poll ∧ ¬ t.ActiveAt i ∧
      ∀ k, k < 8 → (t.storage.getLsbD k = true ↔
        ∃ j ch, j < s.build.n ∧ Drives s.build j k ∧
          s.chans[j]? = some ch ∧ ch.active = true ∧ expired s.clock ch.expiry = false)

/-- 43_command_responder.md R185 (the spec's decision D9, log 19; the hold's form is the model's, log 6): one step of the
machine at the pin level, read with its PIN steps grouped. A PIN step, with an event held or not, is no step of the
step level: only the events to come and the draws move. Any other step, the clock's advance and a QUERY or a power cycle
during a transfer included, is the step that the step level makes from the grouped state; exactly so from an idle
driver, during a transfer up to the order of what is observed. -/
def Obligations.PinLevelStepsAreStepLevelSteps : Prop :=
  ∀ s t : State, s.build.level = .pin → step s = .next t →
    (turn s.xfer s.nextEvent ≠ .deliver → t.grouped = { s.grouped with inbox := t.inbox, draws := t.draws }) ∧
    (turn s.xfer s.nextEvent = .deliver →
      ∃ u, step s.grouped = .next u ∧ u.unobserved = t.grouped.unobserved ∧ (s.xfer = .idle → u = t.grouped))

/-! Runs (43_command_responder.md R180, R186). -/

/-- 43_command_responder.md R180 and R186, the spec's own decision D15 (log 26): the block never stops and is weakly
fair. From every state there is a run; in every run the block takes a step of its own again and again; an enabled
main-loop step is eventually taken; and at the step level the main loop always has one. -/
def Obligations.EveryRunIsWeaklyFair : Prop :=
  (∀ s : State, ∃ r, IsRun r ∧ r 0 = s) ∧
  (∀ r, IsRun r → (∀ k, ∃ j, k ≤ j ∧ (r j).OwnStep) ∧ WeaklyFair r) ∧
  (∀ r, IsRun r → (r 0).build.level = .step → (r 0).xfer = .idle → ∀ j, (r j).MainLoopEnabled)

/-- 43_command_responder.md R180 with R178 and R179 (D15, log 26): the main loop runs without end. From every point of
every run a POLL is taken, a RENDER owed before it included, unless transfers of the bus's keep the main loop waiting,
which only the pin level allows. -/
def Obligations.MainLoopPollsAgainAndAgain : Prop :=
  ∀ (r : Nat → State) (k : Nat), IsRun r → MainLoopFreeUntil State.PollNext r k → ∃ j, k ≤ j ∧ (r j).PollNext

/-- 92_eei_decisions.md D15 (log 26) with 70_reset_and_hazards.md R235 (the comparison is D5, log 16):
fairness makes 'eventually deactivated' provable. A channel that, for as long as it stays active, is past its expiry and within the horizon does not stay active. -/
def Obligations.ExpiredChannelIsEventuallyDeactivated : Prop :=
  ∀ (r : Nat → State) (k i : Nat), IsRun r → i < (r k).build.n →
    MainLoopFreeUntil (fun s => ¬ s.ActiveAt i) r k →
    (∀ j, k ≤ j → (∀ m, k ≤ m → m ≤ j → (r m).ActiveAt i) →
      ∀ ch, (r j).chans[i]? = some ch → expired (r j).clock ch.expiry = true) →
    ∃ j, k ≤ j ∧ ¬ (r j).ActiveAt i

/-- 70_reset_and_hazards.md R233 and R235 with 43_command_responder.md R180 (D15, log 21; the comparison is D5, log 16): the
delay from an expiry to the deactivation is bounded by the poll latency alone. Whatever value a claim gives the
OPEN parameter `POLL_LATENCY`, a channel past its expiry that is not activated again is inactive once more than that many
milliseconds have elapsed, as long as fewer than 2^31 have elapsed since its expiry. -/
def Obligations.ExpiredChannelIsOffWithinPollLatency : Prop :=
  ∀ (r : Nat → State) (latency k n i : Nat) (ch : Chan), IsRun r → PolledWithin latency r k → i < (r k).build.n →
    (r k).chans[i]? = some ch → ((r k).clock - ch.expiry).toNat + elapsed r k n < 2 ^ 31 →
    latency < elapsed r k n → (∀ j, k ≤ j → j < k + n → ¬ (r j).ActivatesNext i) →
    ¬ (r (k + n)).ActiveAt i
end

