-- ==== Sys2Proof/Laws/Codec.lean ====
section
/-!
SUPPORT. The duration's two bytes (30_encoding.md R70, R71) and what classification answers (R73).
-/

namespace Sys2Proof

@[simp] theorem durationOf_low_high (d : Duration) : durationOf (durationLow d) (durationHigh d) = d := by
  apply BitVec.eq_of_getLsbD_eq
  intro i hi
  simp only [durationOf, durationLow, durationHigh, BitVec.getLsbD_append, BitVec.getLsbD_extractLsb']
  by_cases h : i < 8
  · simp [h]
  · simp [h, (by omega : i - 8 < 8), (by omega : 8 + (i - 8) = i)]

@[simp] theorem durationLow_durationOf (lo hi : Byte) : durationLow (durationOf lo hi) = lo := by
  apply BitVec.eq_of_getLsbD_eq
  intro i h
  simp only [durationOf, durationLow, BitVec.getLsbD_extractLsb', BitVec.getLsbD_append]
  simp [h]

@[simp] theorem durationHigh_durationOf (lo hi : Byte) : durationHigh (durationOf lo hi) = hi := by
  apply BitVec.eq_of_getLsbD_eq
  intro i h
  simp only [durationOf, durationHigh, BitVec.getLsbD_extractLsb', BitVec.getLsbD_append]
  simp [h]

/-- The value of a frame's duration (R71). -/
theorem durationOf_toNat (lo hi : Byte) : (durationOf lo hi).toNat = lo.toNat + 256 * hi.toNat := by
  have := lo.isLt
  rw [durationOf, BitVec.toNat_append, ← Nat.shiftLeft_add_eq_or_of_lt this, Nat.shiftLeft_eq]
  omega

/-- Classification answers one of the three receive operations, in range for ACTIVATE, out of range for
DISCARD_RANGE (R73). -/
theorem classify_cases (n : Nat) (bytes : List Byte) :
    (bytes.length < 3 ∧ classify n bytes = .discardShort) ∨
    (∃ c dlo dhi rest, bytes = c :: dlo :: dhi :: rest ∧
      ((n ≤ c.toNat ∧ classify n bytes = .discardRange c) ∨
        (c.toNat < n ∧ classify n bytes = .activate c (durationOf dlo dhi)))) := by
  match bytes with
  | [] => simp [classify]
  | [_] => simp [classify]
  | [_, _] => simp [classify]
  | c :: dlo :: dhi :: rest =>
    refine .inr ⟨c, dlo, dhi, rest, rfl, ?_⟩
    simp only [classify]
    split
    · exact .inl ⟨by assumption, rfl⟩
    · exact .inr ⟨by omega, rfl⟩

end Sys2Proof
end

