-- ==== Sys2Proof/Laws/State.lean ====
section
/-!
SUPPORT. What each named update of the state does to each field: one lemma per field, so that no later proof unfolds an
update. A lemma `<update>_<field>` says that the field is kept, or what it becomes.
-/

namespace Sys2Proof.Machine

@[simp] theorem activate_build (c : Byte) (d : Duration) (s : State) : (activate c d s).build = s.build := by unfold activate; split <;> rfl
@[simp] theorem activate_lastOut (c : Byte) (d : Duration) (s : State) : (activate c d s).lastOut = s.lastOut := by unfold activate; split <;> rfl
@[simp] theorem activate_phase (c : Byte) (d : Duration) (s : State) : (activate c d s).phase = s.phase := by unfold activate; split <;> rfl
@[simp] theorem activate_xfer (c : Byte) (d : Duration) (s : State) : (activate c d s).xfer = s.xfer := by unfold activate; split <;> rfl
@[simp] theorem activate_ser (c : Byte) (d : Duration) (s : State) : (activate c d s).ser = s.ser := by unfold activate; split <;> rfl
@[simp] theorem activate_srclk (c : Byte) (d : Duration) (s : State) : (activate c d s).srclk = s.srclk := by unfold activate; split <;> rfl
@[simp] theorem activate_rclk (c : Byte) (d : Duration) (s : State) : (activate c d s).rclk = s.rclk := by unfold activate; split <;> rfl
@[simp] theorem activate_shiftStage (c : Byte) (d : Duration) (s : State) : (activate c d s).shiftStage = s.shiftStage := by unfold activate; split <;> rfl
@[simp] theorem activate_storage (c : Byte) (d : Duration) (s : State) : (activate c d s).storage = s.storage := by unfold activate; split <;> rfl
@[simp] theorem activate_clock (c : Byte) (d : Duration) (s : State) : (activate c d s).clock = s.clock := by unfold activate; split <;> rfl
@[simp] theorem activate_inbox (c : Byte) (d : Duration) (s : State) : (activate c d s).inbox = s.inbox := by unfold activate; split <;> rfl
@[simp] theorem activate_draws (c : Byte) (d : Duration) (s : State) : (activate c d s).draws = s.draws := by unfold activate; split <;> rfl
@[simp] theorem activate_obs (c : Byte) (d : Duration) (s : State) : (activate c d s).obs = s.obs := by unfold activate; split <;> rfl
@[simp] theorem activate_rendered (c : Byte) (d : Duration) (s : State) : (activate c d s).rendered = s.rendered := by unfold activate; split <;> rfl
@[simp] theorem activate_ret (c : Byte) (d : Duration) (s : State) : (activate c d s).ret = s.ret := by unfold activate; split <;> rfl
@[simp] theorem sweep_build (now : Word) (s : State) : (sweep now s).build = s.build := rfl
@[simp] theorem sweep_chans (now : Word) (s : State) : (sweep now s).chans = (sweepTable now s.build.n s.chans).1 := rfl
@[simp] theorem sweep_lastOut (now : Word) (s : State) : (sweep now s).lastOut = s.lastOut := rfl
@[simp] theorem sweep_phase (now : Word) (s : State) : (sweep now s).phase = s.phase := rfl
@[simp] theorem sweep_xfer (now : Word) (s : State) : (sweep now s).xfer = s.xfer := rfl
@[simp] theorem sweep_ser (now : Word) (s : State) : (sweep now s).ser = s.ser := rfl
@[simp] theorem sweep_srclk (now : Word) (s : State) : (sweep now s).srclk = s.srclk := rfl
@[simp] theorem sweep_rclk (now : Word) (s : State) : (sweep now s).rclk = s.rclk := rfl
@[simp] theorem sweep_shiftStage (now : Word) (s : State) : (sweep now s).shiftStage = s.shiftStage := rfl
@[simp] theorem sweep_storage (now : Word) (s : State) : (sweep now s).storage = s.storage := rfl
@[simp] theorem sweep_clock (now : Word) (s : State) : (sweep now s).clock = s.clock := rfl
@[simp] theorem sweep_inbox (now : Word) (s : State) : (sweep now s).inbox = s.inbox := rfl
@[simp] theorem sweep_draws (now : Word) (s : State) : (sweep now s).draws = s.draws := rfl
@[simp] theorem sweep_obs (now : Word) (s : State) : (sweep now s).obs = s.obs := rfl
@[simp] theorem sweep_rendered (now : Word) (s : State) : (sweep now s).rendered = s.rendered := rfl
@[simp] theorem sweep_ret (now : Word) (s : State) : (sweep now s).ret = s.ret := rfl
@[simp] theorem drive_build (s : State) (p : PinWrite) : (drive s p).build = s.build := by unfold drive; split <;> rfl
@[simp] theorem drive_chans (s : State) (p : PinWrite) : (drive s p).chans = s.chans := by unfold drive; split <;> rfl
@[simp] theorem drive_lastOut (s : State) (p : PinWrite) : (drive s p).lastOut = s.lastOut := by unfold drive; split <;> rfl
@[simp] theorem drive_phase (s : State) (p : PinWrite) : (drive s p).phase = s.phase := by unfold drive; split <;> rfl
@[simp] theorem drive_xfer (s : State) (p : PinWrite) : (drive s p).xfer = s.xfer := by unfold drive; split <;> rfl
@[simp] theorem drive_clock (s : State) (p : PinWrite) : (drive s p).clock = s.clock := by unfold drive; split <;> rfl
@[simp] theorem drive_inbox (s : State) (p : PinWrite) : (drive s p).inbox = s.inbox := by unfold drive; split <;> rfl
@[simp] theorem drive_draws (s : State) (p : PinWrite) : (drive s p).draws = s.draws := by unfold drive; split <;> rfl
@[simp] theorem drive_rendered (s : State) (p : PinWrite) : (drive s p).rendered = s.rendered := by unfold drive; split <;> rfl
@[simp] theorem drive_ret (s : State) (p : PinWrite) : (drive s p).ret = s.ret := by unfold drive; split <;> rfl
@[simp] theorem drive_obs (s : State) (p : PinWrite) : (drive s p).obs = s.obs ++ [.pin p] := by
  unfold drive; split <;> rfl
@[simp] theorem driveAll_build (ps : List PinWrite) (s : State) : (driveAll ps s).build = s.build := by
  unfold driveAll; induction ps generalizing s <;> simp_all
@[simp] theorem driveAll_chans (ps : List PinWrite) (s : State) : (driveAll ps s).chans = s.chans := by
  unfold driveAll; induction ps generalizing s <;> simp_all
@[simp] theorem driveAll_lastOut (ps : List PinWrite) (s : State) : (driveAll ps s).lastOut = s.lastOut := by
  unfold driveAll; induction ps generalizing s <;> simp_all
@[simp] theorem driveAll_phase (ps : List PinWrite) (s : State) : (driveAll ps s).phase = s.phase := by
  unfold driveAll; induction ps generalizing s <;> simp_all
@[simp] theorem driveAll_xfer (ps : List PinWrite) (s : State) : (driveAll ps s).xfer = s.xfer := by
  unfold driveAll; induction ps generalizing s <;> simp_all
@[simp] theorem driveAll_clock (ps : List PinWrite) (s : State) : (driveAll ps s).clock = s.clock := by
  unfold driveAll; induction ps generalizing s <;> simp_all
@[simp] theorem driveAll_inbox (ps : List PinWrite) (s : State) : (driveAll ps s).inbox = s.inbox := by
  unfold driveAll; induction ps generalizing s <;> simp_all
@[simp] theorem driveAll_draws (ps : List PinWrite) (s : State) : (driveAll ps s).draws = s.draws := by
  unfold driveAll; induction ps generalizing s <;> simp_all
@[simp] theorem driveAll_rendered (ps : List PinWrite) (s : State) : (driveAll ps s).rendered = s.rendered := by
  unfold driveAll; induction ps generalizing s <;> simp_all
@[simp] theorem driveAll_ret (ps : List PinWrite) (s : State) : (driveAll ps s).ret = s.ret := by
  unfold driveAll; induction ps generalizing s <;> simp_all
@[simp] theorem driveAll_obs (ps : List PinWrite) (s : State) : (driveAll ps s).obs = s.obs ++ ps.map .pin := by
  unfold driveAll; induction ps generalizing s <;> simp_all
@[simp] theorem shiftOut_build (b : Byte) (s : State) : (shiftOut b s).build = s.build := driveAll_build _ s
@[simp] theorem shiftOut_chans (b : Byte) (s : State) : (shiftOut b s).chans = s.chans := driveAll_chans _ s
@[simp] theorem shiftOut_lastOut (b : Byte) (s : State) : (shiftOut b s).lastOut = s.lastOut := driveAll_lastOut _ s
@[simp] theorem shiftOut_phase (b : Byte) (s : State) : (shiftOut b s).phase = s.phase := driveAll_phase _ s
@[simp] theorem shiftOut_xfer (b : Byte) (s : State) : (shiftOut b s).xfer = s.xfer := driveAll_xfer _ s
@[simp] theorem shiftOut_clock (b : Byte) (s : State) : (shiftOut b s).clock = s.clock := driveAll_clock _ s
@[simp] theorem shiftOut_inbox (b : Byte) (s : State) : (shiftOut b s).inbox = s.inbox := driveAll_inbox _ s
@[simp] theorem shiftOut_draws (b : Byte) (s : State) : (shiftOut b s).draws = s.draws := driveAll_draws _ s
@[simp] theorem shiftOut_rendered (b : Byte) (s : State) : (shiftOut b s).rendered = s.rendered := driveAll_rendered _ s
@[simp] theorem shiftOut_ret (b : Byte) (s : State) : (shiftOut b s).ret = s.ret := driveAll_ret _ s
@[simp] theorem shiftOut_obs (b : Byte) (s : State) :
    (shiftOut b s).obs = s.obs ++ (pinEvents b).map .pin := driveAll_obs _ s
@[simp] theorem setLastOut_build (b : Byte) (s : State) : (setLastOut b s).build = s.build := rfl
@[simp] theorem setLastOut_chans (b : Byte) (s : State) : (setLastOut b s).chans = s.chans := rfl
@[simp] theorem setLastOut_lastOut (b : Byte) (s : State) : (setLastOut b s).lastOut = b := rfl
@[simp] theorem setLastOut_phase (b : Byte) (s : State) : (setLastOut b s).phase = s.phase := rfl
@[simp] theorem setLastOut_xfer (b : Byte) (s : State) : (setLastOut b s).xfer = s.xfer := rfl
@[simp] theorem setLastOut_ser (b : Byte) (s : State) : (setLastOut b s).ser = s.ser := rfl
@[simp] theorem setLastOut_srclk (b : Byte) (s : State) : (setLastOut b s).srclk = s.srclk := rfl
@[simp] theorem setLastOut_rclk (b : Byte) (s : State) : (setLastOut b s).rclk = s.rclk := rfl
@[simp] theorem setLastOut_shiftStage (b : Byte) (s : State) : (setLastOut b s).shiftStage = s.shiftStage := rfl
@[simp] theorem setLastOut_storage (b : Byte) (s : State) : (setLastOut b s).storage = s.storage := rfl
@[simp] theorem setLastOut_clock (b : Byte) (s : State) : (setLastOut b s).clock = s.clock := rfl
@[simp] theorem setLastOut_inbox (b : Byte) (s : State) : (setLastOut b s).inbox = s.inbox := rfl
@[simp] theorem setLastOut_draws (b : Byte) (s : State) : (setLastOut b s).draws = s.draws := rfl
@[simp] theorem setLastOut_obs (b : Byte) (s : State) : (setLastOut b s).obs = s.obs := rfl
@[simp] theorem setLastOut_rendered (b : Byte) (s : State) : (setLastOut b s).rendered = s.rendered := rfl
@[simp] theorem setLastOut_ret (b : Byte) (s : State) : (setLastOut b s).ret = s.ret := rfl
@[simp] theorem encodeState_setLastOut (b : Byte) (s : State) : encodeState (setLastOut b s) = encodeState s := rfl
@[simp] theorem renderWhole_build (s : State) : (renderWhole s).build = s.build := by simp [renderWhole]
@[simp] theorem renderWhole_chans (s : State) : (renderWhole s).chans = s.chans := by simp [renderWhole]
@[simp] theorem renderWhole_phase (s : State) : (renderWhole s).phase = s.phase := by simp [renderWhole]
@[simp] theorem renderWhole_xfer (s : State) : (renderWhole s).xfer = s.xfer := by simp [renderWhole]
@[simp] theorem renderWhole_clock (s : State) : (renderWhole s).clock = s.clock := by simp [renderWhole]
@[simp] theorem renderWhole_inbox (s : State) : (renderWhole s).inbox = s.inbox := by simp [renderWhole]
@[simp] theorem renderWhole_draws (s : State) : (renderWhole s).draws = s.draws := by simp [renderWhole]
@[simp] theorem renderWhole_ret (s : State) : (renderWhole s).ret = s.ret := by simp [renderWhole]
@[simp] theorem renderWhole_lastOut (s : State) : (renderWhole s).lastOut = encodeState s := by simp [renderWhole]
@[simp] theorem renderWhole_rendered (s : State) : (renderWhole s).rendered = true := rfl
@[simp] theorem renderWhole_obs (s : State) :
    (renderWhole s).obs = s.obs ++ (pinEvents (encodeState s)).map .pin := by simp [renderWhole]
@[simp] theorem renderStart_build (o : Owner) (s : State) : (renderStart o s).build = s.build := rfl
@[simp] theorem renderStart_chans (o : Owner) (s : State) : (renderStart o s).chans = s.chans := rfl
@[simp] theorem renderStart_lastOut (o : Owner) (s : State) : (renderStart o s).lastOut = encodeState s := rfl
@[simp] theorem renderStart_phase (o : Owner) (s : State) : (renderStart o s).phase = s.phase := rfl
@[simp] theorem renderStart_xfer (o : Owner) (s : State) : (renderStart o s).xfer = .busy o (encodeState s) 0 := rfl
@[simp] theorem renderStart_ser (o : Owner) (s : State) : (renderStart o s).ser = s.ser := rfl
@[simp] theorem renderStart_srclk (o : Owner) (s : State) : (renderStart o s).srclk = s.srclk := rfl
@[simp] theorem renderStart_rclk (o : Owner) (s : State) : (renderStart o s).rclk = s.rclk := rfl
@[simp] theorem renderStart_shiftStage (o : Owner) (s : State) : (renderStart o s).shiftStage = s.shiftStage := rfl
@[simp] theorem renderStart_storage (o : Owner) (s : State) : (renderStart o s).storage = s.storage := rfl
@[simp] theorem renderStart_clock (o : Owner) (s : State) : (renderStart o s).clock = s.clock := rfl
@[simp] theorem renderStart_inbox (o : Owner) (s : State) : (renderStart o s).inbox = s.inbox := rfl
@[simp] theorem renderStart_draws (o : Owner) (s : State) : (renderStart o s).draws = s.draws := rfl
@[simp] theorem renderStart_obs (o : Owner) (s : State) : (renderStart o s).obs = s.obs := rfl
@[simp] theorem renderStart_rendered (o : Owner) (s : State) : (renderStart o s).rendered = s.rendered := rfl
@[simp] theorem renderStart_ret (o : Owner) (s : State) : (renderStart o s).ret = s.ret := rfl
@[simp] theorem render_build (o : Owner) (s : State) : (render o s).build = s.build := by
  unfold render; split <;> simp
@[simp] theorem render_chans (o : Owner) (s : State) : (render o s).chans = s.chans := by
  unfold render; split <;> simp
@[simp] theorem render_phase (o : Owner) (s : State) : (render o s).phase = s.phase := by
  unfold render; split <;> simp
@[simp] theorem render_clock (o : Owner) (s : State) : (render o s).clock = s.clock := by
  unfold render; split <;> simp
@[simp] theorem render_inbox (o : Owner) (s : State) : (render o s).inbox = s.inbox := by
  unfold render; split <;> simp
@[simp] theorem render_draws (o : Owner) (s : State) : (render o s).draws = s.draws := by
  unfold render; split <;> simp
@[simp] theorem render_ret (o : Owner) (s : State) : (render o s).ret = s.ret := by
  unfold render; split <;> simp
@[simp] theorem render_lastOut (o : Owner) (s : State) : (render o s).lastOut = encodeState s := by
  unfold render; split <;> simp
@[simp] theorem endTransfer_build (o : Owner) (s : State) : (endTransfer o s).build = s.build := rfl
@[simp] theorem endTransfer_chans (o : Owner) (s : State) : (endTransfer o s).chans = s.chans := rfl
@[simp] theorem endTransfer_lastOut (o : Owner) (s : State) : (endTransfer o s).lastOut = s.lastOut := rfl
@[simp] theorem endTransfer_xfer (o : Owner) (s : State) : (endTransfer o s).xfer = .idle := rfl
@[simp] theorem endTransfer_ser (o : Owner) (s : State) : (endTransfer o s).ser = s.ser := rfl
@[simp] theorem endTransfer_srclk (o : Owner) (s : State) : (endTransfer o s).srclk = s.srclk := rfl
@[simp] theorem endTransfer_rclk (o : Owner) (s : State) : (endTransfer o s).rclk = s.rclk := rfl
@[simp] theorem endTransfer_shiftStage (o : Owner) (s : State) : (endTransfer o s).shiftStage = s.shiftStage := rfl
@[simp] theorem endTransfer_storage (o : Owner) (s : State) : (endTransfer o s).storage = s.storage := rfl
@[simp] theorem endTransfer_clock (o : Owner) (s : State) : (endTransfer o s).clock = s.clock := rfl
@[simp] theorem endTransfer_inbox (o : Owner) (s : State) : (endTransfer o s).inbox = s.inbox := rfl
@[simp] theorem endTransfer_draws (o : Owner) (s : State) : (endTransfer o s).draws = s.draws := rfl
@[simp] theorem endTransfer_obs (o : Owner) (s : State) : (endTransfer o s).obs = s.obs := rfl
@[simp] theorem endTransfer_rendered (o : Owner) (s : State) : (endTransfer o s).rendered = true := rfl
@[simp] theorem endTransfer_ret (o : Owner) (s : State) : (endTransfer o s).ret = s.ret := rfl
@[simp] theorem endTransfer_phase_main (s : State) : (endTransfer .main s).phase = .poll := rfl
@[simp] theorem endTransfer_phase_bus (s : State) : (endTransfer .bus s).phase = s.phase := rfl
@[simp] theorem pinStep_build (s : State) : (pinStep s).build = s.build := by
  unfold pinStep; split <;> [rfl; (split <;> simp)]
@[simp] theorem pinStep_chans (s : State) : (pinStep s).chans = s.chans := by
  unfold pinStep; split <;> [rfl; (split <;> simp)]
@[simp] theorem pinStep_lastOut (s : State) : (pinStep s).lastOut = s.lastOut := by
  unfold pinStep; split <;> [rfl; (split <;> simp)]
@[simp] theorem pinStep_clock (s : State) : (pinStep s).clock = s.clock := by
  unfold pinStep; split <;> [rfl; (split <;> simp)]
@[simp] theorem pinStep_inbox (s : State) : (pinStep s).inbox = s.inbox := by
  unfold pinStep; split <;> [rfl; (split <;> simp)]
@[simp] theorem pinStep_draws (s : State) : (pinStep s).draws = s.draws := by
  unfold pinStep; split <;> [rfl; (split <;> simp)]
@[simp] theorem pinStep_ret (s : State) : (pinStep s).ret = s.ret := by
  unfold pinStep; split <;> [rfl; (split <;> simp)]
@[simp] theorem reply_build (v : Byte) (s : State) : (reply v s).build = s.build := rfl
@[simp] theorem reply_chans (v : Byte) (s : State) : (reply v s).chans = s.chans := rfl
@[simp] theorem reply_lastOut (v : Byte) (s : State) : (reply v s).lastOut = s.lastOut := rfl
@[simp] theorem reply_phase (v : Byte) (s : State) : (reply v s).phase = s.phase := rfl
@[simp] theorem reply_xfer (v : Byte) (s : State) : (reply v s).xfer = s.xfer := rfl
@[simp] theorem reply_ser (v : Byte) (s : State) : (reply v s).ser = s.ser := rfl
@[simp] theorem reply_srclk (v : Byte) (s : State) : (reply v s).srclk = s.srclk := rfl
@[simp] theorem reply_rclk (v : Byte) (s : State) : (reply v s).rclk = s.rclk := rfl
@[simp] theorem reply_shiftStage (v : Byte) (s : State) : (reply v s).shiftStage = s.shiftStage := rfl
@[simp] theorem reply_storage (v : Byte) (s : State) : (reply v s).storage = s.storage := rfl
@[simp] theorem reply_clock (v : Byte) (s : State) : (reply v s).clock = s.clock := rfl
@[simp] theorem reply_inbox (v : Byte) (s : State) : (reply v s).inbox = s.inbox := rfl
@[simp] theorem reply_draws (v : Byte) (s : State) : (reply v s).draws = s.draws := rfl
@[simp] theorem reply_obs (v : Byte) (s : State) : (reply v s).obs = s.obs ++ [.reply v] := rfl
@[simp] theorem reply_rendered (v : Byte) (s : State) : (reply v s).rendered = s.rendered := rfl
@[simp] theorem reply_ret (v : Byte) (s : State) : (reply v s).ret = s.ret := rfl
@[simp] theorem resetRegisters_build (s : State) : (resetRegisters s).build = s.build := rfl
@[simp] theorem resetRegisters_chans (s : State) : (resetRegisters s).chans = List.replicate s.build.n Chan.atReset := rfl
@[simp] theorem resetRegisters_lastOut (s : State) : (resetRegisters s).lastOut = 0 := rfl
@[simp] theorem resetRegisters_phase (s : State) : (resetRegisters s).phase = .poll := rfl
@[simp] theorem resetRegisters_xfer (s : State) : (resetRegisters s).xfer = .idle := rfl
@[simp] theorem resetRegisters_ser (s : State) : (resetRegisters s).ser = s.ser := rfl
@[simp] theorem resetRegisters_srclk (s : State) : (resetRegisters s).srclk = s.srclk := rfl
@[simp] theorem resetRegisters_rclk (s : State) : (resetRegisters s).rclk = s.rclk := rfl
@[simp] theorem resetRegisters_shiftStage (s : State) : (resetRegisters s).shiftStage = s.shiftStage := rfl
@[simp] theorem resetRegisters_storage (s : State) : (resetRegisters s).storage = s.storage := rfl
@[simp] theorem resetRegisters_clock (s : State) : (resetRegisters s).clock = s.clock := rfl
@[simp] theorem resetRegisters_inbox (s : State) : (resetRegisters s).inbox = s.inbox := rfl
@[simp] theorem resetRegisters_draws (s : State) : (resetRegisters s).draws = s.draws := rfl
@[simp] theorem resetRegisters_obs (s : State) : (resetRegisters s).obs = s.obs := rfl
@[simp] theorem resetRegisters_rendered (s : State) : (resetRegisters s).rendered = s.rendered := rfl
@[simp] theorem resetRegisters_ret (s : State) : (resetRegisters s).ret = s.ret := rfl
@[simp] theorem driveLow_build (s : State) : (driveLow s).build = s.build := driveAll_build _ s
@[simp] theorem driveLow_chans (s : State) : (driveLow s).chans = s.chans := driveAll_chans _ s
@[simp] theorem driveLow_lastOut (s : State) : (driveLow s).lastOut = s.lastOut := driveAll_lastOut _ s
@[simp] theorem driveLow_phase (s : State) : (driveLow s).phase = s.phase := driveAll_phase _ s
@[simp] theorem driveLow_xfer (s : State) : (driveLow s).xfer = s.xfer := driveAll_xfer _ s
@[simp] theorem driveLow_ser (s : State) : (driveLow s).ser = false := by
  simp [driveLow, driveAll, drive]
@[simp] theorem driveLow_srclk (s : State) : (driveLow s).srclk = false := by
  simp [driveLow, driveAll, drive]
@[simp] theorem driveLow_rclk (s : State) : (driveLow s).rclk = false := by
  simp [driveLow, driveAll, drive]
@[simp] theorem driveLow_shiftStage (s : State) : (driveLow s).shiftStage = s.shiftStage := rfl
@[simp] theorem driveLow_storage (s : State) : (driveLow s).storage = s.storage := rfl
@[simp] theorem driveLow_clock (s : State) : (driveLow s).clock = s.clock := driveAll_clock _ s
@[simp] theorem driveLow_inbox (s : State) : (driveLow s).inbox = s.inbox := driveAll_inbox _ s
@[simp] theorem driveLow_draws (s : State) : (driveLow s).draws = s.draws := driveAll_draws _ s
@[simp] theorem driveLow_obs (s : State) : (driveLow s).obs = s.obs ++ [.pin ⟨.ser, false⟩, .pin ⟨.srclk, false⟩, .pin ⟨.rclk, false⟩] := by
  simp [driveLow, driveAll, drive]
@[simp] theorem driveLow_rendered (s : State) : (driveLow s).rendered = s.rendered := driveAll_rendered _ s
@[simp] theorem driveLow_ret (s : State) : (driveLow s).ret = s.ret := driveAll_ret _ s
@[simp] theorem powerUp_build (s : State) : (powerUp s).build = s.build := rfl
@[simp] theorem powerUp_chans (s : State) : (powerUp s).chans = s.chans := rfl
@[simp] theorem powerUp_lastOut (s : State) : (powerUp s).lastOut = s.lastOut := rfl
@[simp] theorem powerUp_phase (s : State) : (powerUp s).phase = s.phase := rfl
@[simp] theorem powerUp_xfer (s : State) : (powerUp s).xfer = s.xfer := rfl
@[simp] theorem powerUp_ser (s : State) : (powerUp s).ser = s.ser := rfl
@[simp] theorem powerUp_srclk (s : State) : (powerUp s).srclk = s.srclk := rfl
@[simp] theorem powerUp_rclk (s : State) : (powerUp s).rclk = s.rclk := rfl
@[simp] theorem powerUp_shiftStage (s : State) : (powerUp s).shiftStage = Config.powerUpShift s.draws := rfl
@[simp] theorem powerUp_storage (s : State) : (powerUp s).storage = Config.powerUpStorage s.draws := rfl
@[simp] theorem powerUp_clock (s : State) : (powerUp s).clock = s.build.t0 := rfl
@[simp] theorem powerUp_inbox (s : State) : (powerUp s).inbox = s.inbox := rfl
@[simp] theorem powerUp_draws (s : State) : (powerUp s).draws = s.draws + 1 := rfl
@[simp] theorem powerUp_obs (s : State) : (powerUp s).obs = s.obs := rfl
@[simp] theorem powerUp_rendered (s : State) : (powerUp s).rendered = false := rfl
@[simp] theorem powerUp_ret (s : State) : (powerUp s).ret = .none := rfl
@[simp] theorem returning_build (r : Ret) (s : State) : (returning r s).build = s.build := rfl
@[simp] theorem returning_chans (r : Ret) (s : State) : (returning r s).chans = s.chans := rfl
@[simp] theorem returning_lastOut (r : Ret) (s : State) : (returning r s).lastOut = s.lastOut := rfl
@[simp] theorem returning_phase (r : Ret) (s : State) : (returning r s).phase = s.phase := rfl
@[simp] theorem returning_xfer (r : Ret) (s : State) : (returning r s).xfer = s.xfer := rfl
@[simp] theorem returning_ser (r : Ret) (s : State) : (returning r s).ser = s.ser := rfl
@[simp] theorem returning_srclk (r : Ret) (s : State) : (returning r s).srclk = s.srclk := rfl
@[simp] theorem returning_rclk (r : Ret) (s : State) : (returning r s).rclk = s.rclk := rfl
@[simp] theorem returning_shiftStage (r : Ret) (s : State) : (returning r s).shiftStage = s.shiftStage := rfl
@[simp] theorem returning_storage (r : Ret) (s : State) : (returning r s).storage = s.storage := rfl
@[simp] theorem returning_clock (r : Ret) (s : State) : (returning r s).clock = s.clock := rfl
@[simp] theorem returning_inbox (r : Ret) (s : State) : (returning r s).inbox = s.inbox := rfl
@[simp] theorem returning_draws (r : Ret) (s : State) : (returning r s).draws = s.draws := rfl
@[simp] theorem returning_obs (r : Ret) (s : State) : (returning r s).obs = s.obs := rfl
@[simp] theorem returning_rendered (r : Ret) (s : State) : (returning r s).rendered = s.rendered := rfl
@[simp] theorem returning_ret (r : Ret) (s : State) : (returning r s).ret = r := rfl
@[simp] theorem advanceClock_build (δ : Word) (s : State) : (advanceClock δ s).build = s.build := rfl
@[simp] theorem advanceClock_chans (δ : Word) (s : State) : (advanceClock δ s).chans = s.chans := rfl
@[simp] theorem advanceClock_lastOut (δ : Word) (s : State) : (advanceClock δ s).lastOut = s.lastOut := rfl
@[simp] theorem advanceClock_phase (δ : Word) (s : State) : (advanceClock δ s).phase = s.phase := rfl
@[simp] theorem advanceClock_xfer (δ : Word) (s : State) : (advanceClock δ s).xfer = s.xfer := rfl
@[simp] theorem advanceClock_ser (δ : Word) (s : State) : (advanceClock δ s).ser = s.ser := rfl
@[simp] theorem advanceClock_srclk (δ : Word) (s : State) : (advanceClock δ s).srclk = s.srclk := rfl
@[simp] theorem advanceClock_rclk (δ : Word) (s : State) : (advanceClock δ s).rclk = s.rclk := rfl
@[simp] theorem advanceClock_shiftStage (δ : Word) (s : State) : (advanceClock δ s).shiftStage = s.shiftStage := rfl
@[simp] theorem advanceClock_storage (δ : Word) (s : State) : (advanceClock δ s).storage = s.storage := rfl
@[simp] theorem advanceClock_clock (δ : Word) (s : State) : (advanceClock δ s).clock = s.clock + δ := rfl
@[simp] theorem advanceClock_inbox (δ : Word) (s : State) : (advanceClock δ s).inbox = s.inbox := rfl
@[simp] theorem advanceClock_draws (δ : Word) (s : State) : (advanceClock δ s).draws = s.draws := rfl
@[simp] theorem advanceClock_obs (δ : Word) (s : State) : (advanceClock δ s).obs = s.obs := rfl
@[simp] theorem advanceClock_rendered (δ : Word) (s : State) : (advanceClock δ s).rendered = s.rendered := rfl
@[simp] theorem advanceClock_ret (δ : Word) (s : State) : (advanceClock δ s).ret = s.ret := rfl
@[simp] theorem takeEvent_build (s : State) : s.takeEvent.build = s.build := rfl
@[simp] theorem takeEvent_chans (s : State) : s.takeEvent.chans = s.chans := rfl
@[simp] theorem takeEvent_lastOut (s : State) : s.takeEvent.lastOut = s.lastOut := rfl
@[simp] theorem takeEvent_phase (s : State) : s.takeEvent.phase = s.phase := rfl
@[simp] theorem takeEvent_xfer (s : State) : s.takeEvent.xfer = s.xfer := rfl
@[simp] theorem takeEvent_ser (s : State) : s.takeEvent.ser = s.ser := rfl
@[simp] theorem takeEvent_srclk (s : State) : s.takeEvent.srclk = s.srclk := rfl
@[simp] theorem takeEvent_rclk (s : State) : s.takeEvent.rclk = s.rclk := rfl
@[simp] theorem takeEvent_shiftStage (s : State) : s.takeEvent.shiftStage = s.shiftStage := rfl
@[simp] theorem takeEvent_storage (s : State) : s.takeEvent.storage = s.storage := rfl
@[simp] theorem takeEvent_clock (s : State) : s.takeEvent.clock = s.clock := rfl
@[simp] theorem takeEvent_obs (s : State) : s.takeEvent.obs = s.obs := rfl
@[simp] theorem takeEvent_rendered (s : State) : s.takeEvent.rendered = s.rendered := rfl
@[simp] theorem takeEvent_ret (s : State) : s.takeEvent.ret = s.ret := rfl
@[simp] theorem putBack_build (e : Event) (s : State) : (s.putBack e).build = s.build := rfl
@[simp] theorem putBack_chans (e : Event) (s : State) : (s.putBack e).chans = s.chans := rfl
@[simp] theorem putBack_lastOut (e : Event) (s : State) : (s.putBack e).lastOut = s.lastOut := rfl
@[simp] theorem putBack_phase (e : Event) (s : State) : (s.putBack e).phase = s.phase := rfl
@[simp] theorem putBack_xfer (e : Event) (s : State) : (s.putBack e).xfer = s.xfer := rfl
@[simp] theorem putBack_ser (e : Event) (s : State) : (s.putBack e).ser = s.ser := rfl
@[simp] theorem putBack_srclk (e : Event) (s : State) : (s.putBack e).srclk = s.srclk := rfl
@[simp] theorem putBack_rclk (e : Event) (s : State) : (s.putBack e).rclk = s.rclk := rfl
@[simp] theorem putBack_shiftStage (e : Event) (s : State) : (s.putBack e).shiftStage = s.shiftStage := rfl
@[simp] theorem putBack_storage (e : Event) (s : State) : (s.putBack e).storage = s.storage := rfl
@[simp] theorem putBack_clock (e : Event) (s : State) : (s.putBack e).clock = s.clock := rfl
@[simp] theorem putBack_inbox (e : Event) (s : State) : (s.putBack e).inbox = e :: s.inbox := rfl
@[simp] theorem putBack_draws (e : Event) (s : State) : (s.putBack e).draws = s.draws := rfl
@[simp] theorem putBack_obs (e : Event) (s : State) : (s.putBack e).obs = s.obs := rfl
@[simp] theorem putBack_rendered (e : Event) (s : State) : (s.putBack e).rendered = s.rendered := rfl
@[simp] theorem putBack_ret (e : Event) (s : State) : (s.putBack e).ret = s.ret := rfl
@[simp] theorem offerFrame_build (bytes : List Byte) (s : State) : (s.offerFrame bytes).build = s.build := rfl
@[simp] theorem offerFrame_chans (bytes : List Byte) (s : State) : (s.offerFrame bytes).chans = s.chans := rfl
@[simp] theorem offerFrame_lastOut (bytes : List Byte) (s : State) : (s.offerFrame bytes).lastOut = s.lastOut := rfl
@[simp] theorem offerFrame_phase (bytes : List Byte) (s : State) : (s.offerFrame bytes).phase = s.phase := rfl
@[simp] theorem offerFrame_xfer (bytes : List Byte) (s : State) : (s.offerFrame bytes).xfer = .idle := rfl
@[simp] theorem offerFrame_ser (bytes : List Byte) (s : State) : (s.offerFrame bytes).ser = s.ser := rfl
@[simp] theorem offerFrame_srclk (bytes : List Byte) (s : State) : (s.offerFrame bytes).srclk = s.srclk := rfl
@[simp] theorem offerFrame_rclk (bytes : List Byte) (s : State) : (s.offerFrame bytes).rclk = s.rclk := rfl
@[simp] theorem offerFrame_shiftStage (bytes : List Byte) (s : State) : (s.offerFrame bytes).shiftStage = s.shiftStage := rfl
@[simp] theorem offerFrame_storage (bytes : List Byte) (s : State) : (s.offerFrame bytes).storage = s.storage := rfl
@[simp] theorem offerFrame_clock (bytes : List Byte) (s : State) : (s.offerFrame bytes).clock = s.clock := rfl
@[simp] theorem offerFrame_inbox (bytes : List Byte) (s : State) : (s.offerFrame bytes).inbox = .write bytes :: s.inbox := rfl
@[simp] theorem offerFrame_draws (bytes : List Byte) (s : State) : (s.offerFrame bytes).draws = s.draws := rfl
@[simp] theorem offerFrame_obs (bytes : List Byte) (s : State) : (s.offerFrame bytes).obs = s.obs := rfl
@[simp] theorem offerFrame_rendered (bytes : List Byte) (s : State) : (s.offerFrame bytes).rendered = s.rendered := rfl
@[simp] theorem offerFrame_ret (bytes : List Byte) (s : State) : (s.offerFrame bytes).ret = s.ret := rfl

end Sys2Proof.Machine
end

