-- ==== Sys2Proof/Laws/Driver.lean ====
section
/-!
SUPPORT. What a pin event does to the wires and the external register (42_serial_output_driver.md R141, R150, R151),
and from it what a whole transfer does (R144, R153).
-/

namespace Sys2Proof.Machine

/-- The shift stage after a rising edge of SRCLK, bit by bit (R150). -/
theorem getLsbD_shiftIn (stage : Byte) (bit : Bool) (i : Nat) (hi : i < 8) :
    (shiftIn stage bit).getLsbD i = if i = 0 then bit else stage.getLsbD (i - 1) := by
  cases i with
  | zero => simp [shiftIn]
  | succ i => simp [shiftIn, hi, BitVec.getLsbD_eq_getElem (by omega : i < 8)]

theorem pinEvent_latch (b : Byte) : pinEvent b 24 = ⟨.rclk, true⟩ := rfl

theorem pinEvent_unlatch (b : Byte) : pinEvent b 25 = ⟨.rclk, false⟩ := rfl

theorem pinEvent_data {k : Nat} (b : Byte) (h : k < 24) (hk : k % 3 = 0) :
    pinEvent b k = ⟨.ser, b.getLsbD (7 - k / 3)⟩ := by
  rw [pinEvent, if_neg (by omega), if_neg (by omega)]; simp [hk]

theorem pinEvent_rise {k : Nat} (b : Byte) (h : k < 24) (hk : k % 3 = 1) : pinEvent b k = ⟨.srclk, true⟩ := by
  rw [pinEvent, if_neg (by omega), if_neg (by omega)]; simp [hk]

theorem pinEvent_fall {k : Nat} (b : Byte) (hk : k % 3 = 2) : pinEvent b k = ⟨.srclk, false⟩ := by
  rw [pinEvent, if_neg (by omega), if_neg (by omega)]; simp [hk]

/-- Quiet wires are ready for the first event of any transfer. -/
theorem quiet_midTransfer {s : State} (h : s.Quiet) (b : Byte) : s.MidTransfer b 0 where
  srclk := by simp [h.srclk]
  rclk := by simp [h.rclk]
  ser := by omega
  shifted := by simp [shiftsDone]
  latched := by omega

/-- Each pin event but the last leaves the driver ready for the next one. -/
theorem midTransfer_drive {s : State} {b : Byte} {k : Nat} (h : s.MidTransfer b k) (hk : k < 25) :
    (drive s (pinEvent b k)).MidTransfer b (k + 1) := by
  obtain ⟨h1, h2, h3, h4, h5⟩ := h
  by_cases h24 : k = 24
  · subst h24
    rw [pinEvent_latch]
    have hs : s.shiftStage = b := by
      apply BitVec.eq_of_getLsbD_eq
      intro i hi
      simpa [shiftsDone] using h4 i (by simpa [shiftsDone] using hi) hi
    constructor
    · simp [drive, h1]
    · simp [drive]
    · intro _; simp only [drive]; rw [h3 (by omega)]
    · intro i _ h8; simp only [drive, hs]; congr 1; simp [shiftsDone]
    · intro _; simp [drive, h2, hs]
  · have hlt : k < 24 := by omega
    have hm : k % 3 = 0 ∨ k % 3 = 1 ∨ k % 3 = 2 := by omega
    rcases hm with hm | hm | hm
    · rw [pinEvent_data b hlt hm]
      constructor
      · simp only [drive, h1]; grind
      · simp only [drive, h2]; grind
      · intro _; simp [drive]
      · intro i hi h8
        have : shiftsDone (k + 1) = shiftsDone k := by unfold shiftsDone; omega
        simpa [drive, this] using h4 i (by omega) h8
      · omega
    · rw [pinEvent_rise b hlt hm]
      constructor
      · simp only [drive]; grind
      · simp only [drive, h2]; grind
      · intro _
        simp only [drive]
        rw [h3 (by omega)]
        congr 1; omega
      · intro i hi h8
        have hsd : shiftsDone (k + 1) = shiftsDone k + 1 := by unfold shiftsDone; omega
        have hs : shiftsDone k = k / 3 := by unfold shiftsDone; omega
        have hc : s.srclk = false := by rw [h1]; simp [hm]
        simp only [drive, hc, Bool.not_false, Bool.and_self, if_true]
        rw [getLsbD_shiftIn _ _ _ h8]
        split
        · subst_vars
          rw [h3 (by omega)]
          congr 1; omega
        · rw [h4 (i - 1) (by omega) (by omega)]
          congr 1; omega
      · omega
    · rw [pinEvent_fall b hm]
      constructor
      · simp only [drive]; grind
      · simp only [drive, h2]; grind
      · intro _
        simp only [drive]
        rw [h3 (by omega)]
        congr 1; omega
      · intro i hi h8
        have : shiftsDone (k + 1) = shiftsDone k := by unfold shiftsDone; omega
        simpa [drive, this] using h4 i (by omega) h8
      · omega

/-- The last pin event ends the transfer with the clocks low and the byte shown. -/
theorem midTransfer_last {s : State} {b : Byte} (h : s.MidTransfer b 25) :
    (drive s (pinEvent b 25)).Quiet ∧ (drive s (pinEvent b 25)).storage = b ∧
      (drive s (pinEvent b 25)).shiftStage = b ∧ (drive s (pinEvent b 25)).ser = b.getLsbD 0 := by
  rw [pinEvent_unlatch]
  have hs : s.shiftStage = b := by
    apply BitVec.eq_of_getLsbD_eq
    intro i hi
    simpa [shiftsDone] using h.shifted i (by simpa [shiftsDone] using hi) hi
  refine ⟨⟨?_, ?_⟩, ?_, ?_, ?_⟩
  · simpa [drive] using h.srclk
  · simp [drive]
  · simpa [drive] using h.latched rfl
  · simpa [drive] using hs
  · simpa [drive] using h.ser (by omega)

/-- The first `k` events of the transfer of `b`. -/
def driveTo (b : Byte) (k : Nat) (s : State) : State := driveAll ((List.range k).map (pinEvent b)) s

theorem driveTo_succ (b : Byte) (k : Nat) (s : State) : driveTo b (k + 1) s = drive (driveTo b k s) (pinEvent b k) := by
  simp [driveTo, driveAll, List.range_succ]

theorem take_pinEvents (b : Byte) {k : Nat} (hk : k ≤ 26) :
    (pinEvents b).take k = (List.range k).map (pinEvent b) := by
  rw [pinEvents, ← List.map_take, List.take_range, Nat.min_eq_left hk]

theorem quiet_driveTo {s : State} (h : s.Quiet) (b : Byte) {k : Nat} (hk : k ≤ 25) :
    (driveTo b k s).MidTransfer b k := by
  induction k with
  | zero => exact quiet_midTransfer h b
  | succ k ih => rw [driveTo_succ]; exact midTransfer_drive (ih (by omega)) (by omega)

/-- A whole transfer from quiet wires (R144, R153): the byte is shifted, latched and shown, SER rests at its bit 0. -/
theorem shiftOut_spec {s : State} (h : s.Quiet) (b : Byte) :
    (shiftOut b s).Quiet ∧ (shiftOut b s).storage = b ∧ (shiftOut b s).shiftStage = b ∧
      (shiftOut b s).ser = b.getLsbD 0 := by
  have := midTransfer_last (quiet_driveTo h b (Nat.le_refl 25))
  rwa [← driveTo_succ] at this

/-- What a transfer leaves alone, in one equation. -/
theorem shiftOut_frame (b : Byte) (s : State) :
    shiftOut b s =
      { s with
        ser := (shiftOut b s).ser
        srclk := (shiftOut b s).srclk
        rclk := (shiftOut b s).rclk
        shiftStage := (shiftOut b s).shiftStage
        storage := (shiftOut b s).storage
        obs := s.obs ++ (pinEvents b).map .pin } := by
  apply State.ext <;> simp

end Sys2Proof.Machine
end

