-- ==== Sys2Proof/Laws/PerInstr.lean ====
section
/-!
SUPPORT. The statements made per instruction, one lemma per constructor (LAWS.json "per_instruction").
-/

namespace Sys2Proof.Laws.EncodingExists

/-- An operation has an encoding exactly when it is no primitive (30_encoding.md R80). -/
def Statement (i : Instr) : Prop := (encode i).isSome = !i.isPrimitive

theorem activate (c : Byte) (d : Duration) : Statement (.activate c d) := rfl
theorem discardShort : Statement .discardShort := rfl
theorem discardRange (c : Byte) : Statement (.discardRange c) := rfl
theorem query : Statement .query := rfl
theorem poll : Statement .poll := rfl
theorem render : Statement .render := rfl
theorem reset : Statement .reset := rfl
theorem primActivate (c : Byte) (d : Duration) : Statement (.primActivate c d) := rfl
theorem primExpired (now e : Word) : Statement (.primExpired now e) := rfl
theorem primSweep (now : Word) : Statement (.primSweep now) := rfl
theorem primEncode : Statement .primEncode := rfl
theorem primShiftOut (b : Byte) : Statement (.primShiftOut b) := rfl

end Sys2Proof.Laws.EncodingExists
end

