-- ==== Sys2Proof/Laws/Step.lean ====
section
/-!
SUPPORT. What a step can do, said once (43_command_responder.md R173), and what a pin event of a transfer in progress
does (R185).
-/

namespace Sys2Proof.Machine

theorem nextEvent_of_inbox {s : State} {e : Event} {rest : List Event} (h : s.inbox = e :: rest) :
    s.nextEvent = e := by
  simp [State.nextEvent, State.coming, h]

theorem takeEvent_of_inbox {s : State} {e : Event} {rest : List Event} (h : s.inbox = e :: rest) :
    s.takeEvent = { s with inbox := rest } := by
  simp [State.takeEvent, State.coming, h]

/-- Taking an event and offering it again leaves a state whose event came from the inbox as it was. -/
theorem putBack_takeEvent {s : State} {e : Event} {rest : List Event} (h : s.inbox = e :: rest) :
    s.takeEvent.putBack s.nextEvent = s := by
  apply State.ext <;> simp [nextEvent_of_inbox h, takeEvent_of_inbox h, h]

theorem turn_hold {x : Xfer} {e : Event} (h : turn x e = .hold) : x ≠ .idle := by
  rintro rfl; simp [turn] at h

theorem turn_pin {x : Xfer} {e : Event} (h : turn x e = .pin) : x ≠ .idle ∧ e = .internal := by
  unfold turn at h; split at h <;> simp_all

theorem decode_error {n : Nat} {ph : Phase} {e : Event} {r : NoInstr} (h : decode n ph e = .error r) :
    ∃ δ, e = .clock δ ∧ r = .clockAdvance δ := by
  cases e <;> simp_all [decode]

/-- Everything a step can do: a pin event with the event held, a pin event as the block's own step, the clock's
advance, or the operation that the event selects. -/
theorem step_cases {s t : State} (h : step s = .next t) :
    (turn s.xfer s.nextEvent = .hold ∧ t = pinStep (s.takeEvent.putBack s.nextEvent)) ∨
    (turn s.xfer s.nextEvent = .pin ∧ t = pinStep s.takeEvent) ∨
    (∃ δ, s.nextEvent = .clock δ ∧ t = advanceClock δ s.takeEvent) ∨
    (∃ i, turn s.xfer s.nextEvent = .deliver ∧ decode s.build.n s.phase s.nextEvent = .ok i ∧
      exec i s.takeEvent = .next t) := by
  unfold step at h
  split at h
  · rename_i ht
    unfold deliver at h
    simp only [takeEvent_build, takeEvent_phase] at h
    split at h
    · exact .inr (.inr (.inr ⟨_, ht, by assumption, h⟩))
    · rename_i δ hd
      obtain ⟨δ', he, hr⟩ := decode_error hd
      cases hr
      exact .inr (.inr (.inl ⟨δ, he, by simpa using h.symm⟩))
  · exact .inr (.inl ⟨by assumption, by simpa using h.symm⟩)
  · exact .inl ⟨by assumption, by simpa using h.symm⟩

theorem pinStep_idle {s : State} (h : s.xfer = .idle) : pinStep s = s := by
  simp [pinStep, h]

theorem pinStep_busy {s : State} {o : Owner} {b : Byte} {k : Fin 26} (h : s.xfer = .busy o b k) (hk : k.val < 25) :
    pinStep s = { drive s (pinEvent b k.val) with xfer := .busy o b ⟨k.val + 1, by omega⟩ } := by
  simp [pinStep, h, hk]

theorem pinStep_last {s : State} {o : Owner} {b : Byte} {k : Fin 26} (h : s.xfer = .busy o b k) (hk : k.val = 25) :
    pinStep s = endTransfer o (drive s (pinEvent b 25)) := by
  simp [pinStep, h, hk]

theorem pinSteps_add (j k : Nat) (s : State) : pinSteps (j + k) s = pinSteps k (pinSteps j s) := by
  induction j generalizing s with
  | zero => simp [pinSteps]
  | succ j ih => rw [Nat.succ_add]; exact ih _

theorem pinSteps_idle {s : State} (h : s.xfer = .idle) (k : Nat) : pinSteps k s = s := by
  induction k with
  | zero => rfl
  | succ k ih => rw [pinSteps, pinStep_idle h, ih]

/-- The first pin steps of a transfer are its first pin events. -/
theorem pinSteps_start {s : State} {o : Owner} {b : Byte} (h : s.xfer = .busy o b 0) {k : Nat} (hk : k ≤ 25) :
    pinSteps k s = { driveTo b k s with xfer := .busy o b ⟨k, by omega⟩ } := by
  induction k with
  | zero => apply State.ext <;> simp [pinSteps, driveTo, driveAll, h]
  | succ k ih =>
    rw [pinSteps_add k 1, ih (by omega)]
    have hb := pinStep_busy (s := { driveTo b k s with xfer := .busy o b ⟨k, by omega⟩ }) (o := o) (b := b)
      (k := ⟨k, by omega⟩) rfl (by simp; omega)
    rw [pinSteps, pinSteps, hb, driveTo_succ]
    apply State.ext <;> simp [drive] <;> (split <;> rfl)

/-- A transfer started at its first event is, after its 26 pin steps, the whole of `shiftOut`. -/
theorem finished_start {s : State} {o : Owner} {b : Byte} (h : s.xfer = .busy o b 0) :
    s.finished = endTransfer o (shiftOut b s) := by
  have h25 := pinSteps_start h (Nat.le_refl 25)
  rw [State.finished, pinSteps_add 25 1, h25, pinSteps, pinSteps]
  rw [pinStep_last (o := o) (b := b) (k := ⟨25, by omega⟩) rfl rfl]
  have : shiftOut b s = drive (driveTo b 25 s) (pinEvent b 25) := (driveTo_succ b 25 s)
  rw [this]
  apply State.ext <;> simp [endTransfer, drive] <;> cases o <;> rfl

/-- A run of any machine takes its first step and goes on. -/
theorem coreRun_succ (M : Host.Core) {s t : M.State} (h : M.step s = .next t) (k : Nat) :
    M.run (k + 1) s = M.run k t := by
  simp [Host.Core.run, h]

/-- A run of this machine takes its first step and goes on. -/
theorem run_succ {s t : State} (h : step s = .next t) (k : Nat) :
    Sys2Proof.core.run (k + 1) s = Sys2Proof.core.run k t :=
  coreRun_succ Sys2Proof.core h k

/-- The encoded state depends on the build and the table only. -/
theorem encodeState_congr {s t : State} (hb : t.build = s.build) (hc : t.chans = s.chans) :
    encodeState t = encodeState s := by
  unfold encodeState; rw [hb, hc]

/-- The render procedure at the step level. -/
theorem render_step {s : State} (o : Owner) (h : s.build.level = .step) : render o s = renderWhole s := by
  simp [render, h]

/-- The render procedure at the pin level. -/
theorem render_pin {s : State} (o : Owner) (h : s.build.level = .pin) : render o s = renderStart o s := by
  simp [render, h]

/-- Everything an event's operation can do, said once: the six next states a delivered event leads to. -/
theorem deliver_cases {s t : State} {e : Event} {n : Nat} {i : Instr} (hd : decode n s.phase e = .ok i)
    (h : exec i s = .next t) :
    (e = .power ∧ t = powerCycle s) ∨
    (e = .read ∧ t = reply s.lastOut s) ∨
    (∃ bytes, e = .write bytes ∧ t = s) ∨
    (∃ bytes c d, e = .write bytes ∧ classify n bytes = .activate c d ∧ c.toNat < n ∧
      t = render .bus (activate c d s)) ∨
    (e = .internal ∧ s.phase = .poll ∧
      t = { sweep s.clock s with phase := if sweepChanged s.clock s then .render else s.phase }) ∨
    (e = .internal ∧ s.phase = .render ∧
      t = match s.build.level with
        | .step => { render .main s with phase := .poll }
        | .pin => render .main s) := by
  cases e with
  | clock δ => cases hd
  | read => cases hd; cases h; simp
  | power => cases hd; cases h; simp
  | write bytes =>
    cases hd
    rcases classify_cases n bytes with ⟨-, hcl⟩ | ⟨c, dlo, dhi, rest, rfl, ⟨-, hcl⟩ | ⟨hlt, hcl⟩⟩
    · rw [hcl] at h; cases h; simp
    · rw [hcl] at h; cases h; simp
    · rw [hcl] at h; cases h
      exact .inr (.inr (.inr (.inl ⟨_, _, _, rfl, hcl, hlt, rfl⟩)))
  | internal =>
    cases hp : s.phase with
    | poll => rw [hp] at hd; cases hd; cases h; simp [hp]
    | render =>
      rw [hp] at hd; cases hd
      simp only [exec, execRender] at h
      refine .inr (.inr (.inr (.inr (.inr ⟨rfl, rfl, ?_⟩))))
      cases hl : s.build.level <;> rw [hl] at h <;> cases h <;> simp_all

/-- No operation touches the events to come. -/
theorem exec_inbox {i : Instr} {s t : State} (h : exec i s = .next t) : t.inbox = s.inbox := by
  cases i <;> (try cases h <;> simp [powerCycle])
  simp only [exec, execRender] at h
  split at h <;> cases h <;> simp

/-- A step takes the event offered, unless it is held: the events to come after it are the rest. -/
theorem step_inbox {s t : State} (h : step s = .next t) (hn : turn s.xfer s.nextEvent ≠ .hold) :
    t.inbox = s.coming.tail := by
  have hk : t.inbox = s.takeEvent.inbox := by
    rcases step_cases h with ⟨hh, -⟩ | ⟨-, rfl⟩ | ⟨δ, -, rfl⟩ | ⟨i, -, -, he⟩
    · exact absurd hh hn
    · simp
    · simp
    · exact exec_inbox he
  exact hk

end Sys2Proof.Machine
end

