-- ==== Sys2Proof/Laws/Table.lean ====
section
/-!
SUPPORT. What the loops of `sweep` and `encode` do, said once (40_channel_timer_table.md R104, 41_state_encoder.md
R130), and what `activate` does to the table (R100, R101).
-/

namespace Sys2Proof.Machine

/-- A channel after a sweep at `now`. -/
def Chan.swept (now : Word) (ch : Chan) : Chan := { ch with active := ch.active && !expired now ch.expiry }

theorem Chan.swept_of_due {now : Word} {ch : Chan} (h : ch.due now = true) :
    ch.swept now = { ch with active := false } := by
  simp_all [Chan.swept, Chan.due]

theorem Chan.swept_of_not_due {now : Word} {ch : Chan} (h : ch.due now = false) : ch.swept now = ch := by
  cases ch; simp_all [Chan.swept, Chan.due]

@[simp] theorem Chan.swept_swept (now : Word) (ch : Chan) : (ch.swept now).swept now = ch.swept now := by
  simp [Chan.swept]

@[simp] theorem Chan.swept_due (now : Word) (ch : Chan) : (ch.swept now).due now = false := by
  simp [Chan.swept, Chan.due]

/-- One iteration clears its own channel and no other. -/
theorem sweepChan_getElem? (now : Word) (acc : List Chan × Bool) (i j : Nat) :
    (sweepChan now acc i).1[j]? = if j = i then acc.1[j]?.map (Chan.swept now) else acc.1[j]? := by
  unfold sweepChan
  split
  · rename_i ch h
    have hi : i < acc.1.length := (List.getElem?_eq_some_iff.mp h).1
    split
    · rename_i hd
      by_cases hj : j = i
      · subst hj; rw [h]; simp [hi, Chan.swept_of_due hd]
      · simp [hj, List.getElem?_set_ne (Ne.symm hj)]
    · rename_i hd
      by_cases hj : j = i
      · subst hj; simp [h, Chan.swept_of_not_due (Bool.eq_false_iff.mpr hd)]
      · simp [hj]
  · rename_i h
    by_cases hj : j = i
    · subst hj; simp [h]
    · simp [hj]

theorem sweepChan_changed (now : Word) (acc : List Chan × Bool) (i : Nat) :
    (sweepChan now acc i).2 = true ↔ acc.2 = true ∨ ∃ ch, acc.1[i]? = some ch ∧ ch.due now = true := by
  unfold sweepChan
  split
  · rename_i ch h
    split <;> simp_all
  · rename_i h
    simp [h]

/-- The sweep's loop over any channels in any order: exactly those channels are swept. -/
theorem sweepFold_getElem? (now : Word) (is : List Nat) (acc : List Chan × Bool) (j : Nat) :
    (is.foldl (sweepChan now) acc).1[j]? = if j ∈ is then acc.1[j]?.map (Chan.swept now) else acc.1[j]? := by
  induction is generalizing acc with
  | nil => simp
  | cons i is ih =>
    rw [List.foldl_cons, ih, sweepChan_getElem?]
    by_cases hi : j = i
    · subst hi; by_cases hm : j ∈ is <;> cases acc.1[j]? <;> simp [hm]
    · simp [hi]

theorem sweepFold_changed (now : Word) (is : List Nat) (acc : List Chan × Bool) :
    (is.foldl (sweepChan now) acc).2 = true ↔
      acc.2 = true ∨ ∃ i ∈ is, ∃ ch, acc.1[i]? = some ch ∧ ch.due now = true := by
  induction is generalizing acc with
  | nil => simp
  | cons i is ih =>
    rw [List.foldl_cons, ih, sweepChan_changed]
    constructor
    · rintro ((h | h) | ⟨j, hj, ch, hch, hd⟩)
      · exact .inl h
      · exact .inr ⟨i, by simp, h⟩
      · rw [sweepChan_getElem?] at hch
        by_cases hji : j = i
        · subst hji
          simp only [if_true, Option.map_eq_some_iff] at hch
          obtain ⟨a, -, rfl⟩ := hch
          simp at hd
        · simp only [hji, if_false] at hch
          exact .inr ⟨j, by simp [hj], ch, hch, hd⟩
    · rintro (h | ⟨j, hj, ch, hch, hd⟩)
      · exact .inl (.inl h)
      · by_cases hji : j = i
        · subst hji; exact .inl (.inr ⟨ch, hch, hd⟩)
        · refine .inr ⟨j, by simpa [hji] using hj, ch, ?_, hd⟩
          rw [sweepChan_getElem?]; simp [hji, hch]

/-- The table after `sweep(now)`. -/
theorem sweepTable_getElem? (now : Word) (n : Nat) (chans : List Chan) (j : Nat) :
    (sweepTable now n chans).1[j]? = if j < n then chans[j]?.map (Chan.swept now) else chans[j]? := by
  simp [sweepTable, sweepOver, sweepFold_getElem?]

/-- The flag `changed` of `sweep(now)`. -/
theorem sweepTable_changed (now : Word) (n : Nat) (chans : List Chan) :
    (sweepTable now n chans).2 = true ↔ ∃ i, i < n ∧ ∃ ch, chans[i]? = some ch ∧ ch.due now = true := by
  simp [sweepTable, sweepOver, sweepFold_changed]

@[simp] theorem sweepTable_length (now : Word) (n : Nat) (chans : List Chan) :
    (sweepTable now n chans).1.length = chans.length := by
  apply Nat.le_antisymm <;> by_contra hc <;> push Not at hc
  · have h := sweepTable_getElem? now n chans chans.length
    simp [List.getElem?_eq_getElem hc] at h
  · have h := sweepTable_getElem? now n chans (sweepTable now n chans).1.length
    rw [List.getElem?_eq_none (Nat.le_refl _), List.getElem?_eq_getElem hc] at h
    split at h <;> simp at h

/-- A sweep that changes nothing leaves the table as it is. -/
theorem sweepTable_of_unchanged {now : Word} {n : Nat} {chans : List Chan}
    (h : (sweepTable now n chans).2 = false) : (sweepTable now n chans).1 = chans := by
  have hn : ¬ (sweepTable now n chans).2 = true := by simp [h]
  rw [sweepTable_changed] at hn
  apply List.ext_getElem?
  intro j
  rw [sweepTable_getElem?]
  split
  · rename_i hj
    cases hc : chans[j]? with
    | none => rfl
    | some ch =>
      have hd : ch.due now = false := by
        by_contra hd
        exact hn ⟨j, hj, ch, hc, by simpa using hd⟩
      simp [Chan.swept_of_not_due hd]
  · rfl

theorem getLsbD_outputBit_lt : ∀ (k : BitVec 3) (j : Fin 8),
    (outputBit k).getLsbD j.val = decide (k.toNat = j.val) := by decide

@[simp] theorem getLsbD_outputBit (k : BitVec 3) (j : Nat) : (outputBit k).getLsbD j = decide (k.toNat = j) := by
  by_cases hj : j < 8
  · exact getLsbD_outputBit_lt k ⟨j, hj⟩
  · have hk := k.isLt
    have : k.toNat ≠ j := by omega
    simp [this, BitVec.getLsbD_of_ge _ _ (by omega : 8 ≤ j)]

/-- One iteration of the encoder's loop adds its channel's bit, if the channel is active. -/
theorem encodeChan_getLsbD (b : Build) (chans : List Chan) (v : Byte) (i j : Nat) :
    (encodeChan b chans v i).getLsbD j = true ↔
      v.getLsbD j = true ∨ (∃ ch, chans[i]? = some ch ∧ ch.active = true) ∧ Drives b i j := by
  unfold encodeChan Drives bitPosition
  split
  · rename_i ch k h1 h2
    split <;> simp_all
  · rename_i hno
    constructor
    · exact .inl
    · rintro (h | ⟨⟨ch, hch, -⟩, p, hp, -⟩)
      · exact h
      · exact absurd hp (hno ch p hch)

theorem encodeFold_getLsbD (b : Build) (chans : List Chan) (is : List Nat) (v : Byte) (j : Nat) :
    (is.foldl (encodeChan b chans) v).getLsbD j = true ↔
      v.getLsbD j = true ∨ ∃ i ∈ is, (∃ ch, chans[i]? = some ch ∧ ch.active = true) ∧ Drives b i j := by
  induction is generalizing v with
  | nil => simp
  | cons i is ih =>
    rw [List.foldl_cons, ih, encodeChan_getLsbD]
    simp only [List.mem_cons]
    constructor
    · rintro ((h | h) | ⟨i', hi', h⟩)
      · exact .inl h
      · exact .inr ⟨i, .inl rfl, h⟩
      · exact .inr ⟨i', .inr hi', h⟩
    · rintro (h | ⟨i', rfl | hi', h⟩)
      · exact .inl (.inl h)
      · exact .inl (.inr h)
      · exact .inr ⟨i', hi', h⟩

/-- Bit `j` of the encoded state. -/
theorem encodeTable_getLsbD (b : Build) (chans : List Chan) (j : Nat) :
    (encodeTable b chans).getLsbD j = true ↔
      ∃ i, i < b.n ∧ (∃ ch, chans[i]? = some ch ∧ ch.active = true) ∧ Drives b i j := by
  simp [encodeTable, encodeFold_getLsbD]

/-- `activate` out of range changes nothing (R101). -/
theorem activate_of_ge {c : Byte} {d : Duration} {s : State} (h : s.build.n ≤ channelOperand c) :
    activate c d s = s := by
  simp [activate, h]

/-- `activate` in range replaces its own channel. -/
theorem activate_chans_of_lt {c : Byte} {d : Duration} {s : State} (h : channelOperand c < s.build.n) :
    (activate c d s).chans =
      s.chans.set (channelOperand c) { active := true, expiry := s.clock + durationOperand d } := by
  simp [activate, Nat.not_le.mpr h]

@[simp] theorem activate_chans_length (c : Byte) (d : Duration) (s : State) :
    (activate c d s).chans.length = s.chans.length := by
  unfold activate; split <;> simp

end Sys2Proof.Machine
end

