-- ==== Sys2Proof/Tests/Slice0.lean ====
section
/-!
SUPPORT. The model's own tests. Expected results come from the spec's vectors (95_test_vectors.md), named in each comment;
the last part shows, for each statement with hypotheses, a state and operands that meet them.
-/

namespace Sys2Proof.Tests

open Sys2Proof Sys2Proof.Machine

/-- What a next state shows, if there is one. -/
def after {α : Type} (o : Host.Outcome State Fault Refusal) (f : State → α) : Option α :=
  match o with
  | .next t => some (f t)
  | .fault _ => none
  | .refused _ => none

/-- A reference-build state with this table, `lastOut` and phase, its outputs showing `lastOut`. -/
def state (chans : List Chan) (lastOut : Byte) (phase : Phase) : State :=
  { State.reset with
    chans := chans
    lastOut := lastOut
    phase := phase
    storage := lastOut
    shiftStage := lastOut
    ser := lastOut.getLsbD 0
    rendered := true }

/-- The reference table with channels 0 and 2 active, expiring at 0x64 and 0x3C (vectors 2.4). -/
def table02 : List Chan := [⟨true, 0x64⟩, ⟨false, 0⟩, ⟨true, 0x3C⟩, ⟨false, 0⟩]

/-- The reference build at the pin level. -/
def pinBuild : Build := { Build.reference with level := .pin }

/-- A pin-level state just before event `e_k` of a transfer of 0x42 for `o`, the table of `table02`. -/
def midTransfer (o : Owner) (k : Fin 26) (inbox : List Event) : State :=
  { driveTo 0x42 k.val (state table02 0x42 (match o with | .main => .render | .bus => .poll)) with
    build := pinBuild
    xfer := .busy o 0x42 k
    inbox := inbox }

/-! Well-formedness: an ill-formed term for each check. -/

theorem test_wf_channel_in_range : (Instr.activate 3 0).wf 4 = true ∧ (Instr.activate 4 0).wf 4 = false := by decide
theorem test_wf_discard_out_of_range :
    (Instr.discardRange 4).wf 4 = true ∧ (Instr.discardRange 3).wf 4 = false := by decide
theorem test_wf_no_channels : (Build.mk 0 [] 0 .step).wf = false := by decide
theorem test_wf_too_many_channels : (Build.mk 257 (List.replicate 257 0) 0 .step).wf = false := by
  simp only [Build.wf, List.length_replicate]; decide
theorem test_wf_map_length : (Build.mk 4 [1, 2, 6] 0 .step).wf = false := by decide
theorem test_wf_reference : Build.reference.wf = true := by decide

/-! Decoding, from vectors 2.1; every constructor with an encoding. -/

/-- `[03 FF FF]`. -/
theorem test_decode_activate :
    decode 4 .poll (.write [0b00000011, 0b11111111, 0b11111111]) = .ok (.activate 3 65535) := rfl
/-- `[01 E8 03 AA]`: low byte first, the fourth byte ignored. -/
theorem test_decode_activate_long : decode 4 .poll (.write [0x01, 0xE8, 0x03, 0xAA]) = .ok (.activate 1 1000) := rfl
/-- `[04 64]`: length is tested before range. -/
theorem test_decode_short : decode 4 .poll (.write [0x04, 0x64]) = .ok .discardShort := rfl
/-- `[80 01 00]`: byte 0 is unsigned. -/
theorem test_decode_range : decode 4 .poll (.write [0x80, 0x01, 0x00]) = .ok (.discardRange 0x80) := rfl
theorem test_decode_read : decode 4 .poll .read = .ok .query := rfl
theorem test_decode_internal :
    decode 4 .poll .internal = .ok .poll ∧ decode 4 .render .internal = .ok .render := ⟨rfl, rfl⟩
theorem test_decode_power : decode 4 .poll .power = .ok .reset := rfl
/-- The primitives have no encoding (R80). -/
theorem test_encode_primitives :
    encode (.primActivate 0 0) = none ∧ encode (.primExpired 0 0) = none ∧ encode (.primSweep 0) = none ∧
      encode .primEncode = none ∧ encode (.primShiftOut 0) = none := by decide
/-- The table's word W = byte0 * 2^16 + byte1 * 2^8 + byte2 (R80). -/
theorem test_table_word :
    decodeTableWord 24 0x01E803 = some (.activate 1 1000) ∧ decodeTableWord 24 0x046400 = some (.discardRange 4) ∧
      decodeTableWord 16 0x0064 = some .discardShort := by decide
theorem test_step_runs_table_word :
    after (step (State.reset.withFetchWord 24 0x006400)) (fun t => (t.lastOut, t.storage, t.inbox)) =
      some (0x02, 0x02, []) := by decide

/-! One step of each operation. -/

/-- P1, line 5. -/
theorem test_activate_renders :
    after (exec (.activate 2 50) { state [⟨true, 0x64⟩, ⟨false, 0⟩, ⟨false, 0⟩, ⟨false, 0⟩] 0x02 .poll with clock := 10 })
      (fun t => (t.chans, t.lastOut, t.storage)) = some (table02, 0x42, 0x42) := by decide
/-- P3, line 1: the expiry wraps. -/
theorem test_activate_wraps :
    after (exec (.activate 3 0x200) { State.reset with clock := 0xFFFFFF00 })
      (fun t => (t.chans[3]?, t.lastOut)) = some (some ⟨true, 0x100⟩, 0x80) := by decide
theorem test_discardShort : exec .discardShort (state table02 0x42 .poll) = .next (state table02 0x42 .poll) := rfl
theorem test_discardRange : exec (.discardRange 4) (state table02 0x42 .poll) = .next (state table02 0x42 .poll) := rfl
/-- Vectors 2.7: the stale reply. -/
theorem test_query_stale :
    after (exec .query (state (List.replicate 4 ⟨false, 0x64⟩) 0x02 .render)) (fun t => t.obs) =
      some [.reply 0x02] := by decide
/-- Vectors 2.4 at 0x3B: nothing changes. -/
theorem test_poll_before_expiry :
    after (exec .poll { state table02 0x42 .poll with clock := 0x3B }) (fun t => (t.chans, t.phase)) =
      some (table02, .poll) := by decide
/-- Vectors 2.4 at 0x3C: channel 2 only, at its very expiry; `lastOut` is left stale. -/
theorem test_poll_at_expiry :
    after (exec .poll { state table02 0x42 .poll with clock := 0x3C }) (fun t => (t.chans, t.phase, t.lastOut)) =
      some ([⟨true, 0x64⟩, ⟨false, 0⟩, ⟨false, 0x3C⟩, ⟨false, 0⟩], .render, 0x42) := by decide
/-- Vectors 2.7: RENDER. -/
theorem test_render :
    after (exec .render (state (List.replicate 4 ⟨false, 0x64⟩) 0x02 .render))
      (fun t => (t.lastOut, t.storage, t.phase)) = some (0x00, 0x00, .poll) := by decide
/-- Vectors 2.7: RESET. -/
theorem test_reset :
    after (exec .reset (state table02 0x42 .render)) (fun t => (t.chans.map Chan.active, t.lastOut, t.phase)) =
      some ([false, false, false, false], 0x00, .poll) := by decide
/-- Vectors 2.2: 0xFFFF0001 + 65535. -/
theorem test_primActivate :
    after (exec (.primActivate 1 65535) { State.reset with clock := 0xFFFF0001 }) (fun t => t.chans[1]?) =
      some (some ⟨true, 0⟩) := by decide
/-- Vectors 2.3: across the wrap, and the last value inside the horizon. -/
theorem test_primExpired_wrap :
    after (exec (.primExpired 0x00000000 0xFFFFFFFF) State.reset) (fun t => t.ret) = some (.flag true) ∧
      after (exec (.primExpired 0xFFFFFFFF 0x00000100) State.reset) (fun t => t.ret) = some (.flag false) := by decide
theorem test_primExpired_horizon :
    after (exec (.primExpired 0x80000063 0x64) State.reset) (fun t => t.ret) = some (.flag true) ∧
      after (exec (.primExpired 0x80000064 0x64) State.reset) (fun t => t.ret) = some (.flag false) := by decide
/-- Vectors 2.4 at 0x64: both at once. -/
theorem test_primSweep :
    after (exec (.primSweep 0x64) (state table02 0x42 .poll)) (fun t => (t.chans.map Chan.active, t.ret)) =
      some ([false, false, false, false], .flag true) := by decide
/-- Vectors 2.5: all four channels of the reference build. -/
theorem test_primEncode :
    after (exec .primEncode (state (List.replicate 4 ⟨true, 0⟩) 0 .poll)) (fun t => t.ret) =
      some (.byte 0xC6) := by decide
/-- Vectors 2.5: a shared bit position. -/
theorem test_primEncode_shared_bit :
    encodeTable ⟨4, [3, 3, 0, 7], 0, .step⟩ [⟨true, 0⟩, ⟨true, 0⟩, ⟨false, 0⟩, ⟨false, 0⟩] = 0x08 := by decide
/-- Vectors 2.6: whatever the register held. -/
theorem test_primShiftOut :
    after (exec (.primShiftOut 0x42) { State.reset with shiftStage := 0xA5, storage := 0x5A })
      (fun t => (t.shiftStage, t.storage, t.ser, t.srclk, t.rclk)) = some (0x42, 0x42, false, false, false) := by decide
/-- Vectors 2.8: the torn output 0x42, 0xFF, k = 3. -/
theorem test_torn_output :
    (driveAll ((pinEvents 0x42).drop 9) (shiftOut 0xFF (driveAll ((pinEvents 0x42).take 9) State.reset))).storage =
      0xE2 := by decide

/-! Steps: hold, PIN, clock. -/

/-- R59: a write frame waits for `e_25`. -/
theorem test_frame_held :
    after (step (midTransfer .main 25 [.write [0, 0x64, 0]])) (fun t => (t.xfer, t.inbox, t.phase)) =
      some (.idle, [.write [0, 0x64, 0]], .poll) := by decide
/-- R237: a QUERY during a main-loop transfer. -/
theorem test_query_during_transfer :
    after (step { midTransfer .main 12 [.read] with storage := 0x02, obs := [] })
      (fun t => (t.obs, t.storage, t.xfer)) = some ([.reply 0x42], 0x02, .busy .main 0x42 12) := by decide
/-- R180: what is drawn into an empty inbox ends with a step of the block's own. -/
theorem test_drawn_events_end_with_own_step : State.reset.coming.getLast? = some .internal := by
  simp [State.coming, State.reset, State.resetOf]
theorem test_clock_wraps :
    after (step { State.reset with clock := 0xFFFFFFFF, inbox := [.clock 1] }) (fun t => t.clock) = some 0 := by decide

/-! Witnesses: the hypotheses of each statement can be met. -/

theorem witness_FrameClassification :
    [(0x04 : Byte), 0x64].length < 3 ∧ 4 ≤ (0x04 : Byte).toNat ∧ (0x03 : Byte).toNat < 4 := by decide

theorem witness_DecodeOfEncode :
    (Instr.activate 3 65535).wf 4 = true ∧ (Instr.activate 3 65535).selectedIn .render = true ∧
      encode (.activate 3 65535) = some (.write [3, 0xFF, 0xFF]) ∧
      Instr.render.wf 4 = true ∧ Instr.render.selectedIn .render = true ∧ encode .render = some .internal := by decide

theorem witness_EncodeOfActivationFrame :
    [(0x03 : Byte), 0xE8, 0x03].length = 3 ∧ classify 4 [0x03, 0xE8, 0x03] = .activate 3 1000 := by decide

theorem witness_DecodedIsWellFormed : decode 4 .render .internal = .ok .render := rfl

theorem witness_TableMaskSelectsActivate :
    0x03FFFF < 2 ^ 24 ∧ decodeTableWord 24 0x03FFFF = some (.activate 3 65535) ∧
      0x040000 < 2 ^ 24 ∧ decodeTableWord 24 0x040000 = some (.discardRange 4) := by decide

theorem witness_StepRunsDecodedOperation :
    (let s := { state table02 0x42 .poll with inbox := [.write [3, 0, 0]] }
     turn s.xfer s.nextEvent = .deliver ∧ decode s.build.n s.phase s.nextEvent = .ok (.activate 3 0) ∧
       s.inbox = [.write [3, 0, 0]]) ∧
    State.reset.inbox = [] := ⟨⟨rfl, rfl, rfl⟩, rfl⟩

theorem witness_ClockStepChangesOnlyClock :
    ({ State.reset with inbox := [.clock 5] } : State).inbox = [.clock 5] := rfl

theorem witness_InternalStepDuringTransferIsPin :
    (midTransfer .main 24 [.internal]).xfer = .busy .main 0x42 24 ∧ (24 : Fin 26).val < 25 ∧
      (midTransfer .main 24 [.internal]).inbox = [.internal] ∧
      (midTransfer .bus 25 [.internal]).xfer = .busy .bus 0x42 25 ∧ (25 : Fin 26).val = 25 ∧
      (midTransfer .bus 25 [.internal]).inbox = [.internal] := ⟨rfl, by decide, rfl, rfl, rfl, rfl⟩

theorem witness_HeldEventsWaitForTransfer :
    (midTransfer .main 0 [.write []]).xfer = .busy .main 0x42 0 ∧ (midTransfer .main 0 [.write []]).inbox = [.write []] ∧
      (midTransfer .bus 25 [.read]).xfer = .busy .bus 0x42 25 ∧ (midTransfer .bus 25 [.read]).inbox = [.read] ∧
      (midTransfer .main 25 [.read]).xfer = .busy .main 0x42 25 ∧ (midTransfer .main 25 [.read]).inbox = [.read] :=
  ⟨rfl, rfl, rfl, rfl, rfl, rfl⟩

theorem witness_HeldFrameRunsAfterTransfer :
    (midTransfer .main 0 [.write [3, 0, 0], .read]).xfer = .busy .main 0x42 0 ∧
      (midTransfer .main 0 [.write [3, 0, 0], .read]).inbox = [.write [3, 0, 0], .read] ∧
      (midTransfer .bus 25 [.write []]).xfer = .busy .bus 0x42 25 ∧
      (midTransfer .bus 25 [.write []]).inbox = [.write []] := ⟨rfl, rfl, rfl, rfl⟩

theorem witness_ActivateAtStepLevel :
    let s := state table02 0x42 .poll
    s.build.level = .step ∧ s.chans.length = s.build.n ∧ s.Quiet ∧ (3 : Byte).toNat < s.build.n :=
  ⟨rfl, rfl, ⟨rfl, rfl⟩, by decide⟩

theorem witness_ActivateAtPinLevel :
    let s := State.resetOf pinBuild
    s.build.level = .pin ∧ s.chans.length = s.build.n ∧ (3 : Byte).toNat < s.build.n := ⟨rfl, rfl, by decide⟩

theorem witness_EveryActivateTransfersFully :
    State.reset.build.level = .step ∧ (State.resetOf pinBuild).build.level = .pin := ⟨rfl, rfl⟩

theorem witness_DiscardedFramesLeaveNoTrace :
    (let s := { State.reset with inbox := [.write [0, 0x64]] }
     s.xfer = .idle ∧ s.inbox = [.write [0, 0x64]] ∧ [(0 : Byte), 0x64].length < 3) ∧
    (let s := { State.reset with inbox := [.write [4, 0x64, 0]] }
     s.xfer = .idle ∧ s.inbox = [.write [4, 0x64, 0]] ∧ s.build.n ≤ (4 : Byte).toNat) :=
  ⟨⟨rfl, rfl, by decide⟩, ⟨rfl, rfl, by decide⟩⟩

theorem witness_PollSweepsAndOwesRender :
    (let s := { state table02 0x42 .poll with clock := 0x3C }
     ∃ i ch, i < s.build.n ∧ s.chans[i]? = some ch ∧ ch.active = true ∧ expired s.clock ch.expiry = true) ∧
    (∀ i ch, i < State.reset.build.n → State.reset.chans[i]? = some ch →
      ¬ (ch.active = true ∧ expired State.reset.clock ch.expiry = true)) := by
  refine ⟨⟨2, ⟨true, 0x3C⟩, by decide, rfl, rfl, by decide⟩, ?_⟩
  intro i ch hi h
  have hi : i < 4 := hi
  interval_cases i <;> cases h <;> decide

theorem witness_RenderAtStepLevel :
    (state table02 0x42 .render).build.level = .step ∧ (state table02 0x42 .render).Quiet := ⟨rfl, ⟨rfl, rfl⟩⟩

theorem witness_RenderAtPinLevel : (State.resetOf pinBuild).build.level = .pin := rfl

/-- Nothing is active after reset. -/
theorem witness_PollWithNothingActiveChangesNothing :
    ∀ i, i < State.reset.build.n → ¬ State.reset.ActiveAt i := by
  rintro i hi ⟨ch, h, ha⟩
  have hi : i < 4 := hi
  interval_cases i <;> cases h <;> cases ha

theorem witness_NothingActiveEncodesToZero : ∀ i, i < State.reset.build.n → ¬ State.reset.ActiveAt i :=
  witness_PollWithNothingActiveChangesNothing

theorem witness_PrimitiveActivateWritesItsChannel :
    State.reset.chans.length = State.reset.build.n ∧ (3 : Byte).toNat < State.reset.build.n ∧
      State.reset.build.n ≤ (4 : Byte).toNat := by decide

theorem witness_ActivateOutOfRangeIsNoOp :
    State.reset.build.n ≤ (4 : Byte).toNat ∧ classify 4 [3, 0, 0] = .activate 3 0 := by decide

theorem witness_PrimitiveShiftOutShowsByte : ({ State.reset with storage := 0x5A } : State).Quiet := ⟨rfl, rfl⟩

theorem witness_EncodedStateDependsOnActiveBitsOnly :
    (let s := state table02 0x42 .poll
     let t := state [⟨true, 1⟩, ⟨false, 2⟩, ⟨true, 3⟩, ⟨false, 4⟩] 0x00 .render
     s.build = t.build ∧ s.chans.map Chan.active = t.chans.map Chan.active) ∧
    exec .primEncode State.reset = .next (returning (.byte (encodeState State.reset)) State.reset) :=
  ⟨⟨rfl, rfl⟩, rfl⟩

theorem witness_SweepOrderDoesNotMatter : [3, 1, 0, 2].Perm (List.range 4) := by decide

theorem witness_ReactivationReplacesExpiry :
    (state table02 0x42 .poll).chans.length = (state table02 0x42 .poll).build.n ∧
      (2 : Byte).toNat < (state table02 0x42 .poll).build.n := by decide

theorem witness_ZeroDurationEndsAtFirstSweep :
    State.reset.chans.length = State.reset.build.n ∧ (3 : Byte).toNat < State.reset.build.n ∧
      ((0x7FFFFFFF : Word) - State.reset.clock).toNat < 2 ^ 31 := by decide

theorem witness_SerMovesOnlyWhileClocksLow :
    State.reset.Quiet ∧ 21 < 26 ∧ (pinEvent 0x42 21).wire = .ser := ⟨⟨rfl, rfl⟩, by decide, rfl⟩

theorem witness_OutputChangesOnlyAtLatch : (state table02 0x42 .poll).Quiet ∧ 24 ≤ 24 ∧ 25 ≤ 25 :=
  ⟨⟨rfl, rfl⟩, by decide, by decide⟩

theorem witness_TornOutputFormula : State.reset.Quiet ∧ 0 ≤ 8 ∧ 8 ≤ 8 := ⟨⟨rfl, rfl⟩, by decide, by decide⟩

/-- An invariant state inside a bus transfer: `e_13` of 0x42 comes next; `phase` is POLL. -/
theorem witness_inv_mid_transfer : (midTransfer .bus 13 [.internal]).Inv where
  table := ⟨by decide, by decide⟩
  coherent := fun _ => by decide
  driver := ⟨rfl, rfl, by decide, (fun h => by cases h), ⟨by decide, by decide, fun _ => by decide, by decide, by decide⟩⟩

theorem witness_StepKeepsInvariant :
    (midTransfer .bus 13 [.internal]).Inv ∧ ∃ t, step (midTransfer .bus 13 [.internal]) = .next t :=
  ⟨witness_inv_mid_transfer, _, rfl⟩

theorem witness_ResetMeetsInvariant : (Build.mk 256 (List.replicate 256 7) 0xFFFFFFFF .pin).wf = true := by
  simp only [Build.wf, List.length_replicate]; decide

theorem witness_BuildIsImmutable :
    (∃ t, exec (.activate 0 1) State.reset = .next t) ∧ ∃ t, step { State.reset with inbox := [.power] } = .next t :=
  ⟨⟨_, rfl⟩, ⟨_, rfl⟩⟩

/-- In the window before an owed render the reply is stale (P5, line 5). -/
theorem witness_QueryIsStaleOnlyBeforeOwedRender :
    ((midTransfer .bus 13 [.internal]).Inv ∧ (midTransfer .bus 13 [.internal]).phase = .poll) ∧
    (let s := state [⟨false, 0x64⟩, ⟨false, 0⟩, ⟨false, 0⟩, ⟨true, 0xFFFF⟩] 0x82 .render
     s.Inv ∧ s.lastOut ≠ encodeState s) :=
  ⟨⟨witness_inv_mid_transfer, rfl⟩,
    ⟨⟨⟨by decide, by decide⟩, (fun h => by cases h), ⟨⟨rfl, rfl⟩, ⟨fun _ => rfl, fun _ => by decide⟩⟩⟩, by decide⟩⟩

theorem witness_InactiveExpiriesAreUnobservable :
    (let s := { state table02 0x42 .poll with inbox := [.internal] }
     let s' := { s with chans := [⟨true, 0x64⟩, ⟨false, 0x99⟩, ⟨true, 0x3C⟩, ⟨false, 0x77⟩] }
     s.Alike s' ∧ s ≠ s' ∧ ∃ t, step s = .next t) := by
  refine ⟨⟨?_, rfl⟩, by decide, ⟨_, rfl⟩⟩
  exact .cons ⟨rfl, fun _ => rfl⟩ (.cons ⟨rfl, (fun h => by cases h)⟩
    (.cons ⟨rfl, fun _ => rfl⟩ (.cons ⟨rfl, (fun h => by cases h)⟩ .nil)))

theorem witness_PinLevelRefinesStepLevel :
    (State.resetOf pinBuild).build.level = .pin ∧ (State.resetOf pinBuild).xfer = .idle ∧
      (∃ t, exec (.activate 3 7) (State.resetOf pinBuild) = .next t) ∧
      (midTransfer .main 13 []).build.level = .pin ∧ (midTransfer .main 13 []).xfer ≠ .idle ∧
      ∃ t, exec .query (midTransfer .main 13 []) = .next t :=
  ⟨rfl, rfl, ⟨_, rfl⟩, rfl, by decide, ⟨_, rfl⟩⟩

theorem witness_TransfersNeverInterleave :
    (midTransfer .bus 25 [.internal]).xfer = .busy .bus 0x42 25 ∧
      ∃ t, step (midTransfer .bus 25 [.internal]) = .next t := ⟨rfl, _, rfl⟩

theorem witness_ReplyRunsAheadOfOutputs :
    let s := { State.resetOf pinBuild with phase := .render }
    s.build.level = .pin ∧ s.xfer = .idle ∧ s.Quiet ∧ 24 ≤ 24 := ⟨rfl, rfl, ⟨rfl, rfl⟩, by decide⟩

/-- A rise (ACTIVATE of channel 3) and a fall (channel 2 at its expiry). -/
theorem witness_ChannelChangesOnlyAsLifecycleSays :
    after (step { state table02 0x42 .poll with inbox := [.write [3, 1, 0]] }) (fun t => t.chans[3]?) =
      some (some ⟨true, 1⟩) ∧ (state table02 0x42 .poll).chans[3]? = some ⟨false, 0⟩ ∧
    after (step { state table02 0x42 .poll with inbox := [.internal], clock := 0x3C }) (fun t => t.chans[2]?) =
      some (some ⟨false, 0x3C⟩) ∧ (state table02 0x42 .poll).chans[2]? = some ⟨true, 0x3C⟩ := by decide

theorem witness_BusOperationsKeepPhase :
    (∃ t, exec (.activate 2 10) (state table02 0x42 .render) = .next t) ∧
      ∃ t, exec .query (state table02 0x42 .render) = .next t := ⟨⟨_, rfl⟩, ⟨_, rfl⟩⟩

theorem witness_LastOutChangesOnlyToEncodedState :
    ∃ t, step { state table02 0x00 .render with inbox := [.internal] } = .next t := ⟨_, rfl⟩

theorem witness_ExpiredChannelsGoDarkInOneIteration :
    let s := { state table02 0x42 .poll with inbox := [.internal, .internal], clock := 0x3C }
    s.Inv ∧ s.build.level = .step ∧ s.phase = .poll ∧ s.inbox = [.internal, .internal] ∧ 2 < s.build.n ∧
      s.chans[2]? = some ⟨true, 0x3C⟩ ∧ expired s.clock 0x3C = true :=
  ⟨⟨⟨by decide, by decide⟩, fun _ => by decide, ⟨⟨rfl, rfl⟩, ⟨fun _ => rfl, fun _ => by decide⟩⟩⟩,
    rfl, rfl, rfl, by decide, rfl, by decide⟩

/-- A held frame, a PIN step, the clock and a QUERY during a transfer, and an activation from an idle driver. -/
theorem witness_PinLevelStepsAreStepLevelSteps :
    (midTransfer .main 25 [.write [3, 0, 0]]).build.level = .pin ∧
    (∃ t, step (midTransfer .main 25 [.write [3, 0, 0]]) = .next t) ∧
    turn (midTransfer .main 25 [.write [3, 0, 0]]).xfer (.write [3, 0, 0]) ≠ .deliver ∧
    (∃ t, step (midTransfer .bus 0 [.internal]) = .next t) ∧ turn (.busy .bus 0x42 0) .internal ≠ .deliver ∧
    (∃ t, step (midTransfer .bus 13 [.clock 1]) = .next t) ∧ turn (.busy .bus 0x42 13) (.clock 1) = .deliver ∧
    (∃ t, step (midTransfer .main 25 [.read]) = .next t) ∧ turn (.busy .main 0x42 25) .read = .deliver ∧
    (∃ t, step { State.resetOf pinBuild with inbox := [.write [3, 0, 0]] } = .next t) ∧
    turn (State.resetOf pinBuild).xfer (.write [3, 0, 0]) = .deliver :=
  ⟨rfl, ⟨_, rfl⟩, by decide, ⟨_, rfl⟩, by decide, ⟨_, rfl⟩, rfl, ⟨_, rfl⟩, rfl, ⟨_, rfl⟩, rfl⟩

/-! Witnesses about runs: a run from a given state. -/

/-- The state after a step. -/
def following (s : State) : State := (after (step s) id).getD s

/-- The run from `s`. -/
def runFrom (s : State) : Nat → State
  | 0 => s
  | k + 1 => following (runFrom s k)

/-- The run from a state is one. -/
theorem isRun_runFrom (s : State) : IsRun (runFrom s) := by
  intro k
  show step (runFrom s k) = .next (following (runFrom s k))
  generalize runFrom s k = t
  have hexec : ∀ (i : Instr) (t : State), exec i t = .next ((after (exec i t) id).getD t) := by
    intro i t
    cases i <;> (try rfl)
    simp only [exec, execRender]
    split <;> rfl
  have hstep : step t = .next ((after (step t) id).getD t) := by
    unfold step deliver
    split
    · split
      · rw [hexec]; rfl
      · rfl
    · rfl
    · rfl
  exact hstep

/-- Channel 2 at its expiry, the block's own step coming next. -/
def atExpiry (level : Level) : State :=
  { state table02 0x42 .poll with
    build := { Build.reference with level := level }
    clock := 0x3C
    inbox := [.internal] }

/-- The POLL deactivates channel 2, at either level. -/
theorem atExpiry_off (level : Level) : ¬ (runFrom (atExpiry level) 1).ActiveAt 2 := by
  rintro ⟨ch, h, ha⟩
  have : (runFrom (atExpiry level) 1).chans[2]? = some ⟨false, 0x3C⟩ := by cases level <;> decide
  rw [this] at h; cases h; cases ha

theorem witness_EveryRunIsWeaklyFair :
    IsRun (runFrom State.reset) ∧ (runFrom State.reset 0).build.level = .step ∧
      (runFrom State.reset 0).xfer = .idle := ⟨isRun_runFrom _, rfl, rfl⟩

theorem witness_MainLoopPollsAgainAndAgain :
    (IsRun (runFrom State.reset) ∧ MainLoopFreeUntil State.PollNext (runFrom State.reset) 0) ∧
    IsRun (runFrom (atExpiry .pin)) ∧ MainLoopFreeUntil State.PollNext (runFrom (atExpiry .pin)) 0 := by
  refine ⟨⟨isRun_runFrom _, .inl ⟨rfl, rfl⟩⟩, isRun_runFrom _, .inr fun j _ h => ?_⟩
  cases j with
  | zero => intro b k hx; cases hx
  | succ j => exact absurd ⟨rfl, rfl, rfl⟩ (h 0 (Nat.zero_le _) (Nat.succ_pos j))

theorem witness_ExpiredChannelIsEventuallyDeactivated (level : Level) :
    let r := runFrom (atExpiry level)
    IsRun r ∧ 2 < (r 0).build.n ∧ MainLoopFreeUntil (fun s => ¬ s.ActiveAt 2) r 0 ∧
      ∀ j, 0 ≤ j → (∀ m, 0 ≤ m → m ≤ j → (r m).ActiveAt 2) →
        ∀ ch, (r j).chans[2]? = some ch → expired (r j).clock ch.expiry = true := by
  refine ⟨isRun_runFrom _, (by decide : 2 < 4), .inr fun j _ h => ?_, fun j _ h ch hc => ?_⟩
  · match j with
    | 0 => intro b k hx; cases hx
    | 1 =>
      have : (runFrom (atExpiry level) 1).xfer = .idle := by cases level <;> decide
      intro b k hx; rw [this] at hx; cases hx
    | j + 2 => exact absurd (atExpiry_off level) (h 1 (by omega) (by omega))
  · match j with
    | 0 => cases hc; cases level <;> decide
    | j + 1 => exact absurd (h 1 (by omega) (by omega)) (atExpiry_off level)

/-- The last millisecond of the horizon: 2^31 - 3 past the expiry, a millisecond before the POLL and one after it. -/
def latePoll : State :=
  { state table02 0x42 .poll with clock := 0x80000039, inbox := [.clock 1, .internal, .clock 1] }

theorem witness_ExpiredChannelIsOffWithinPollLatency :
    let r := runFrom latePoll
    IsRun r ∧ PolledWithin 1 r 0 ∧ 2 < (r 0).build.n ∧ (r 0).chans[2]? = some ⟨true, 0x3C⟩ ∧
      ((r 0).clock - 0x3C).toNat + elapsed r 0 3 = 2 ^ 31 - 1 ∧ 1 < elapsed r 0 3 ∧
      ∀ j, 0 ≤ j → j < 3 → ¬ (r j).ActivatesNext 2 := by
  refine ⟨isRun_runFrom _, fun n hn => ?_, (by decide : 2 < 4), rfl, by decide, by decide, fun j _ hj => ?_⟩
  · match n with
    | 0 => exact absurd hn (by decide)
    | 1 => exact absurd hn (by decide)
    | n + 2 => exact ⟨1, by omega, by omega, rfl, rfl, rfl⟩
  · have h0 : (runFrom latePoll 0).nextEvent = .clock 1 := rfl
    have h1 : (runFrom latePoll 1).nextEvent = .internal := rfl
    have h2 : (runFrom latePoll 2).nextEvent = .clock 1 := by decide
    rintro ⟨bytes, c, d, he, -⟩
    interval_cases j
    · rw [h0] at he; cases he
    · rw [h1] at he; cases he
    · rw [h2] at he; cases he

end Sys2Proof.Tests
end

/-! Proofs: 00_scope.md. -/

namespace Sys2Proof.Machine

@[simp] theorem powerCycle_build (s : State) : (powerCycle s).build = s.build := by simp [powerCycle]

/-- RENDER at the pin level ends in `render` alone; at the step level it also writes `phase` (R179, R185). -/
theorem execRender_build {s t : State} (h : execRender s = .next t) : t.build = s.build := by
  unfold execRender at h
  split at h
  case h_1 => cases h; exact render_build .main s
  case h_2 => cases h; exact render_build .main s

/-- No operation writes the build's constants (R7): each is made of updates of other fields. -/
theorem exec_build {i : Instr} {s t : State} (h : exec i s = .next t) : t.build = s.build := by
  cases i with
  | activate c d => cases h; exact (render_build .bus _).trans (activate_build c d s)
  | discardShort => cases h; rfl
  | discardRange c => cases h; rfl
  | query => cases h; exact reply_build s.lastOut s
  | poll => cases h; exact sweep_build s.clock s
  | render => exact execRender_build h
  | reset => cases h; exact powerCycle_build s
  | primActivate c d => cases h; exact activate_build c d s
  | primExpired now e => cases h; exact returning_build _ s
  | primSweep now => cases h; exact sweep_build now s
  | primEncode => cases h; exact returning_build _ s
  | primShiftOut b => cases h; exact shiftOut_build b s

/-- No step writes the build's constants (R7): taking or holding an event, a pin event and the clock's advance leave
them as they are, and so does every operation. -/
theorem step_build {s t : State} (h : step s = .next t) : t.build = s.build := by
  obtain ⟨-, rfl⟩ | ⟨-, rfl⟩ | ⟨δ, -, rfl⟩ | ⟨i, -, -, hexec⟩ := step_cases h
  · simp
  · simp
  · simp
  · exact (exec_build hexec).trans (takeEvent_build s)

/-- Settles O43: what holds of every operation (`exec_build`) and of every step (`step_build`). -/
theorem buildIsImmutable : Obligations.BuildIsImmutable :=
  ⟨fun _ _ _ => exec_build, fun _ _ => step_build⟩

end Sys2Proof.Machine

/-! Proofs: 20_memory.md. -/

namespace Sys2Proof.Machine

/-- The three events `e_(3j) .. e_(3j+2)` that shift bit `7 - j` of `b` (R141): the bit on SER, then one pulse of SRCLK. -/
def shiftRound (b : Byte) (j : Nat) : List PinWrite := [⟨.ser, b.getLsbD (7 - j)⟩, ⟨.srclk, true⟩, ⟨.srclk, false⟩]

/-- A transfer is eight rounds of shifting and then one pulse of RCLK (R141). -/
theorem pinEvents_eq_shiftRounds (b : Byte) :
    pinEvents b = (List.range 8).flatMap (shiftRound b) ++ [⟨.rclk, true⟩, ⟨.rclk, false⟩] := rfl

/-- The levels that a sequence of pin writes gives SER, in order. -/
def serLevels (ps : List PinWrite) : List Bool := ps.filterMap fun p => if p.wire = .ser then some p.level else none

@[simp] theorem serLevels_append (ps qs : List PinWrite) : serLevels (ps ++ qs) = serLevels ps ++ serLevels qs :=
  List.filterMap_append

theorem serLevels_flatMap (f : Nat → List PinWrite) (js : List Nat) :
    serLevels (js.flatMap f) = js.flatMap fun j => serLevels (f j) :=
  List.filterMap_flatMap

@[simp] theorem serLevels_shiftRound (b : Byte) (j : Nat) : serLevels (shiftRound b j) = [b.getLsbD (7 - j)] := rfl

/-- The pulse of RCLK writes nothing to SER. -/
@[simp] theorem serLevels_latchPulse : serLevels [⟨.rclk, true⟩, ⟨.rclk, false⟩] = [] := rfl

/-- A transfer writes to SER bit `7 - j` of its byte in round `j`, and nothing else (R52, R76). -/
theorem serLevels_pinEvents (b : Byte) : serLevels (pinEvents b) = (List.range 8).map fun j => b.getLsbD (7 - j) := by
  rw [pinEvents_eq_shiftRounds, serLevels_append, serLevels_latchPulse, List.append_nil, serLevels_flatMap,
    List.map_eq_flatMap]
  simp only [serLevels_shiftRound]

/-- Settles O36: the eight rounds in order (`serLevels_pinEvents`), the first with bit 7 and the last with bit 0. -/
theorem bitsGoOutMostSignificantFirst : Obligations.BitsGoOutMostSignificantFirst := serLevels_pinEvents

end Sys2Proof.Machine

/-! Proofs: 30_encoding.md. -/

namespace Sys2Proof.Machine

/-- The length test comes first: a frame without its three bytes is short, whatever its first byte (R73). -/
theorem classify_of_short {bytes : List Byte} (n : Nat) (h : bytes.length < 3) : classify n bytes = .discardShort := by
  obtain ⟨-, hshort⟩ | ⟨c, dlo, dhi, rest, rfl, -⟩ := classify_cases n bytes
  · exact hshort
  · simp only [List.length_cons] at h
    omega

/-- With its three bytes present, a frame for a channel that the build does not have is out of range (R73). -/
theorem classify_of_ge {n : Nat} {c : Byte} (dlo dhi : Byte) (rest : List Byte) (h : n ≤ c.toNat) :
    classify n (c :: dlo :: dhi :: rest) = .discardRange c :=
  if_pos h

/-- With its three bytes present, a frame for one of the build's channels activates it (R73). -/
theorem classify_of_lt {n : Nat} {c : Byte} (dlo dhi : Byte) (rest : List Byte) (h : c.toNat < n) :
    classify n (c :: dlo :: dhi :: rest) = .activate c (durationOf dlo dhi) :=
  if_neg (Nat.not_le.mpr h)

/-- The duration operand is zero-extended: no duration loses or gains value (R71). -/
@[simp] theorem durationOperand_toNat (d : Duration) : (durationOperand d).toNat = d.toNat :=
  BitVec.toNat_setWidth_of_le (by decide)

/-- Settles O1, in the order of R73: the length test, the range test, and for ACTIVATE the little-endian value of the
duration (`durationOf_toNat`), which zero-extension keeps (`durationOperand_toNat`). -/
theorem frameClassification : Obligations.FrameClassification := by
  intro n bytes
  refine ⟨classify_of_short n, ?_⟩
  rintro c dlo dhi rest rfl
  refine ⟨classify_of_ge dlo dhi rest, fun hlt => ⟨durationOf dlo dhi, classify_of_lt dlo dhi rest hlt, ?_⟩⟩
  rw [durationOperand_toNat, durationOf_toNat]

end Sys2Proof.Machine

/-! Proofs: 40_channel_timer_table.md. -/

namespace Sys2Proof.Machine

/-- A channel is due when it is active and its expiry has come (R104). -/
theorem Chan.due_iff {now : Word} {ch : Chan} :
    ch.due now = true ↔ ch.active = true ∧ expired now ch.expiry = true :=
  Bool.and_eq_true_iff

/-- A sweep clears `active` of a channel that is due and touches no other; the expiry stays in either case (R104). -/
theorem Chan.swept_eq_ite (now : Word) (ch : Chan) :
    ch.swept now = if ch.active = true ∧ expired now ch.expiry = true then { ch with active := false } else ch := by
  split
  case isTrue h => exact Chan.swept_of_due (Chan.due_iff.mpr h)
  case isFalse h => exact Chan.swept_of_not_due (Bool.eq_false_iff.mpr (mt Chan.due_iff.mp h))

/-- What `sweep(now)` leaves of the channel `ch` at index `i` (R104). -/
theorem sweepTable_getElem?_of_some {now : Word} {n i : Nat} {chans : List Chan} {ch : Chan} (h : chans[i]? = some ch) :
    (sweepTable now n chans).1[i]? = some
      (if i < n ∧ ch.active = true ∧ expired now ch.expiry = true then { ch with active := false } else ch) := by
  rw [sweepTable_getElem?, h, Option.map_some, Chan.swept_eq_ite]
  by_cases hi : i < n
  · simp only [hi, if_true, true_and]
  · simp only [hi, if_false, false_and]

/-- The flag `changed` says that one of the build's channels was active and expired (R104). -/
theorem sweepChanged_iff (now : Word) (s : State) :
    sweepChanged now s = true ↔
      ∃ i ch, i < s.build.n ∧ s.chans[i]? = some ch ∧ ch.active = true ∧ expired now ch.expiry = true := by
  simp only [sweepChanged, sweepTable_changed, Chan.due_iff, exists_and_left]

/-- Settles O27: the frame by the shape of the meaning, the table by `sweepTable_getElem?_of_some`, the flag by
`sweepChanged_iff`. -/
theorem primitiveSweepClearsExpired : Obligations.PrimitiveSweepClearsExpired := by
  intro now s
  refine ⟨returning (.flag (sweepChanged now s)) (sweep now s), sweepChanged now s, rfl, rfl, ?length, ?table,
    sweepChanged_iff now s⟩
  case length => exact sweepTable_length now s.build.n s.chans
  case table => exact fun _ _ hch => sweepTable_getElem?_of_some hch

/-- Only the range test's own branch of the classification answers ACTIVATE (R73). -/
theorem lt_of_classify_activate {n : Nat} {bytes : List Byte} {c : Byte} {d : Duration}
    (h : classify n bytes = .activate c d) : c.toNat < n := by
  obtain ⟨-, hshort⟩ | ⟨c', dlo, dhi, rest, -, ⟨-, hrange⟩ | ⟨hlt, hact⟩⟩ := classify_cases n bytes
  · rw [hshort] at h
    cases h
  · rw [hrange] at h
    cases h
  · rw [hact] at h
    cases h
    exact hlt

/-- Settles O25: the primitive's own range test (`activate_of_ge`) and the classification's
(`lt_of_classify_activate`). -/
theorem activateOutOfRangeIsNoOp : Obligations.ActivateOutOfRangeIsNoOp :=
  ⟨fun _ _ _ => activate_of_ge, fun _ _ _ _ => lt_of_classify_activate⟩

/-- `activate` in range writes its own channel's entry and no other part of the state (R100). -/
theorem activate_of_lt {c : Byte} {d : Duration} {s : State} (h : channelOperand c < s.build.n) :
    activate c d s =
      { s with chans := s.chans.set (channelOperand c) { active := true, expiry := s.clock + durationOperand d } } :=
  if_neg (Nat.not_le.mpr h)

/-- After `activate` in range the channel is active and expires `d` milliseconds after the clock value (R100). -/
theorem activate_getElem?_self {c : Byte} {d : Duration} {s : State} (hlen : s.chans.length = s.build.n)
    (h : channelOperand c < s.build.n) :
    (activate c d s).chans[channelOperand c]? =
      some { active := true, expiry := s.clock + durationOperand d } := by
  rw [activate_chans_of_lt h, List.getElem?_set_self (hlen ▸ h)]

/-- The latest activation wins: an earlier one of the same channel leaves no trace, whatever the clock did between them,
because the later one overwrites the whole entry, and out of range neither writes (R101, R106). -/
theorem activate_advanceClock_activate (c : Byte) (d₁ d₂ : Duration) (δ : Word) (s : State) :
    activate c d₂ (advanceClock δ (activate c d₁ s)) = activate c d₂ (advanceClock δ s) := by
  by_cases h : channelOperand c < s.build.n
  · simp only [activate_of_lt, advanceClock, h, List.set_set]
  · rw [activate_of_ge (d := d₁) (Nat.not_lt.mp h)]

/-- Settles O34: the earlier activation leaves no trace (`activate_advanceClock_activate`), so the expiry is that of one
activation at the advanced clock (`activate_getElem?_self`). -/
theorem reactivationReplacesExpiry : Obligations.ReactivationReplacesExpiry := by
  intro c d₁ d₂ δ s
  refine ⟨activate_advanceClock_activate c d₁ d₂ δ s, fun hlen hlt => ?_⟩
  rw [activate_advanceClock_activate]
  exact activate_getElem?_self (s := advanceClock δ s) hlen hlt

end Sys2Proof.Machine

/-! Proofs: 41_state_encoder.md. -/

namespace Sys2Proof.Machine

/-- The primitive encode leaves the encoded state in `ret` and writes nothing else (R130, R134). -/
theorem exec_primEncode (s : State) : exec .primEncode s = .next { s with ret := .byte (encodeState s) } := rfl

/-- Bit `k` of the encoded state says whether some active channel of the build drives output bit `k` (R130). -/
theorem encodeState_getLsbD (s : State) (k : Nat) :
    (encodeState s).getLsbD k = true ↔ ∃ i, i < s.build.n ∧ s.ActiveAt i ∧ Drives s.build i k :=
  encodeTable_getLsbD s.build s.chans k

/-- A channel is active iff its entry in the table's list of `active` bits is set (R21). -/
theorem State.activeAt_iff_getElem?_map (s : State) (i : Nat) :
    s.ActiveAt i ↔ (s.chans.map Chan.active)[i]? = some true := by
  rw [List.getElem?_map, Option.map_eq_some_iff]
  rfl

/-- Settles O28: the byte is the encoded state, read bit by bit (`encodeState_getLsbD`). -/
theorem primitiveEncodeReturnsActiveBits : Obligations.PrimitiveEncodeReturnsActiveBits :=
  fun s => ⟨encodeState s, exec_primEncode s, fun k _ => encodeState_getLsbD s k⟩

/-- Settles O30: a set bit would name an active channel (`encodeState_getLsbD`), so every bit is clear, as in 0x00. -/
theorem nothingActiveEncodesToZero : Obligations.NothingActiveEncodesToZero := by
  intro s hoff
  apply BitVec.eq_of_getLsbD_eq
  intro k _
  have hclear : ¬ (encodeState s).getLsbD k = true := by
    rw [encodeState_getLsbD]
    rintro ⟨i, hi, hactive, -⟩
    exact hoff i hi hactive
  rw [Bool.eq_false_iff.mpr hclear]
  exact BitVec.getLsbD_zero.symm

/-- For one build, the `active` bits determine the encoded state: they decide each of its bits (R134). -/
theorem encodeState_eq_of_map_active_eq {s t : State} (hbuild : s.build = t.build)
    (hactive : s.chans.map Chan.active = t.chans.map Chan.active) : encodeState s = encodeState t := by
  apply BitVec.eq_of_getLsbD_eq
  intro k _
  rw [Bool.eq_iff_iff, encodeState_getLsbD, encodeState_getLsbD]
  simp only [State.activeAt_iff_getElem?_map, hbuild, hactive]

/-- Settles O31: the first half is `encodeState_eq_of_map_active_eq`, the second the frame of `exec_primEncode`. -/
theorem encodedStateDependsOnActiveBitsOnly : Obligations.EncodedStateDependsOnActiveBitsOnly := by
  refine ⟨fun _ _ => encodeState_eq_of_map_active_eq, fun s t h => ?frame⟩
  case frame =>
    rw [exec_primEncode] at h
    cases h
    rfl

end Sys2Proof.Machine

/-! Proofs: 43_command_responder.md. -/

namespace Sys2Proof.Machine

/-- A short frame has no effect (R175). -/
theorem exec_discardShort (s : State) : exec .discardShort s = .next s := rfl

/-- A frame out of range has no effect; its channel byte is not used (R176). -/
theorem exec_discardRange (c : Byte) (s : State) : exec (.discardRange c) s = .next s := rfl

/-- While the driver is idle every event offered is taken (R173). -/
theorem step_of_idle {s : State} (h : s.xfer = .idle) : step s = deliver s.nextEvent s.takeEvent := by
  simp only [step, h, turn]

/-- With an idle driver a write frame is taken and runs the operation that its classification selects (R73, R173). -/
theorem step_write_of_idle {s : State} {bytes : List Byte} {rest : List Event} (hidle : s.xfer = .idle)
    (hinbox : s.inbox = .write bytes :: rest) :
    step s = exec (classify s.build.n bytes) { s with inbox := rest } := by
  rw [step_of_idle hidle, nextEvent_of_inbox hinbox, takeEvent_of_inbox hinbox]
  rfl

/-- Settles O17: the two meanings, and for the step the classification that selects one of them (`classify_of_short`,
`classify_of_ge`) in the state that has taken the frame (`step_write_of_idle`). -/
theorem discardedFramesLeaveNoTrace : Obligations.DiscardedFramesLeaveNoTrace := by
  refine ⟨exec_discardShort, exec_discardRange, ?step⟩
  case step =>
    intro s bytes rest hidle hinbox hdiscard
    rw [step_write_of_idle hidle hinbox]
    obtain hshort | ⟨c, dlo, dhi, more, rfl, hrange⟩ := hdiscard
    · rw [classify_of_short s.build.n hshort, exec_discardShort]
    · rw [classify_of_ge dlo dhi more hrange, exec_discardRange]

/-- The state after a POLL (R178): the table swept at the clock value, and RENDER owed if a channel changed. -/
def polled (s : State) : State :=
  { sweep s.clock s with phase := if sweepChanged s.clock s then .render else s.phase }

/-- POLL is total: it always answers that state (R178, R200). -/
theorem exec_poll (s : State) : exec .poll s = .next (polled s) := rfl

/-- POLL writes the table and `phase` only: it never renders (R178). -/
theorem polled_frame (s : State) : polled s = { s with chans := (polled s).chans, phase := (polled s).phase } := rfl

/-- A POLL that cleared a channel owes a render (R178). -/
theorem polled_phase_of_changed {s : State} (h : sweepChanged s.clock s = true) : (polled s).phase = .render :=
  if_pos h

/-- A POLL that cleared no channel changes nothing: the sweep leaves the whole table (`sweepTable_of_unchanged`), and no
render is owed (R178). -/
theorem polled_of_unchanged {s : State} (h : sweepChanged s.clock s = false) : polled s = s := by
  have hchans : (sweepTable s.clock s.build.n s.chans).1 = s.chans := sweepTable_of_unchanged h
  simp only [polled, sweep, hchans, h, Bool.false_eq_true, if_false]

/-- Settles O19: each entry by `sweepTable_getElem?_of_some`; whether an expired channel was active is what the flag
`changed` says (`sweepChanged_iff`), and the flag decides between a render owed (`polled_phase_of_changed`) and no change
at all (`polled_of_unchanged`). -/
theorem pollSweepsAndOwesRender : Obligations.PollSweepsAndOwesRender := by
  intro s
  refine ⟨polled s, exec_poll s, ?length, ?table, ?owed, ?unchanged, polled_frame s⟩
  case length => exact sweepTable_length s.clock s.build.n s.chans
  case table => exact fun _ _ hch => sweepTable_getElem?_of_some hch
  case owed => exact fun hdue => polled_phase_of_changed ((sweepChanged_iff s.clock s).mpr hdue)
  case unchanged =>
    intro hnone
    apply polled_of_unchanged
    rw [Bool.eq_false_iff, Ne, sweepChanged_iff]
    rintro ⟨i, ch, hi, hch, hdue⟩
    exact hnone i ch hi hch hdue

end Sys2Proof.Machine

/-! Proofs: 60_exceptions.md. -/

namespace Sys2Proof.Machine

/-- RENDER completes at either level: at the step level with the loop back in POLL, at the pin level with the transfer
begun (R179, R185, R200). -/
theorem exists_execRender_eq_next (s : State) : ∃ t, execRender s = .next t := by
  unfold execRender
  split
  case h_1 => exact ⟨{ render .main s with phase := .poll }, rfl⟩
  case h_2 => exact ⟨render .main s, rfl⟩

/-- Every operation completes, in the state that its rule names (R200). -/
theorem exists_exec_eq_next (i : Instr) (s : State) : ∃ t, exec i s = .next t := by
  cases i with
  | activate c d => exact ⟨render .bus (activate c d s), rfl⟩
  | discardShort => exact ⟨s, exec_discardShort s⟩
  | discardRange c => exact ⟨s, exec_discardRange c s⟩
  | query => exact ⟨reply s.lastOut s, rfl⟩
  | poll => exact ⟨polled s, exec_poll s⟩
  | render => exact exists_execRender_eq_next s
  | reset => exact ⟨powerCycle s, rfl⟩
  | primActivate c d => exact ⟨returning .none (activate c d s), rfl⟩
  | primExpired now e => exact ⟨returning (.flag (expired now e)) s, rfl⟩
  | primSweep now => exact ⟨returning (.flag (sweepChanged now s)) (sweep now s), rfl⟩
  | primEncode => exact ⟨{ s with ret := .byte (encodeState s) }, exec_primEncode s⟩
  | primShiftOut b => exact ⟨returning .none (shiftOut b s), rfl⟩

/-- An event taken completes: it selects an operation, which completes, or it is the clock's advance (R79, R109). -/
theorem exists_deliver_eq_next (e : Event) (s : State) : ∃ t, deliver e s = .next t := by
  unfold deliver
  split
  case h_1 i _ => exact exists_exec_eq_next i s
  case h_2 δ _ => exact ⟨advanceClock δ s, rfl⟩

/-- Every step completes, whether the event offered is taken, is the next pin event, or is held during one (R173). -/
theorem exists_step_eq_next (s : State) : ∃ t, step s = .next t := by
  unfold step
  split
  case h_1 => exact exists_deliver_eq_next s.nextEvent s.takeEvent
  case h_2 => exact ⟨pinStep s.takeEvent, rfl⟩
  case h_3 => exact ⟨pinStep (s.takeEvent.putBack s.nextEvent), rfl⟩

/-- Settles O9: every operation completes (`exists_exec_eq_next`), and with it every step (`exists_step_eq_next`). -/
theorem everyOperationCompletes : Obligations.EveryOperationCompletes :=
  ⟨exists_exec_eq_next, exists_step_eq_next⟩

end Sys2Proof.Machine

/-! Proofs: decoding and encoding. -/

namespace Sys2Proof.Machine

/-- A frame decodes to what it classifies as, in either phase (R73, R79). -/
theorem decode_write (n : Nat) (ph : Phase) (bytes : List Byte) :
    decode n ph (.write bytes) = .ok (classify n bytes) := rfl

/-- Settles O3, by the operation: a frame is classified by its range (`classify_of_lt`, `classify_of_ge`), its duration's
bytes join to the duration again (`durationOf_low_high`), and the main loop's two steps share the internal event, which
the phase tells apart. -/
theorem decodeOfEncode : Obligations.DecodeOfEncode := by
  intro n ph i e hwf hsel henc
  cases i with
  | activate c d =>
    cases henc
    have hlt : c.toNat < n := of_decide_eq_true hwf
    rw [decode_write, classify_of_lt _ _ _ hlt, durationOf_low_high]
  | discardShort =>
    cases henc
    rfl
  | discardRange c =>
    cases henc
    have hge : n ≤ c.toNat := of_decide_eq_true hwf
    rw [decode_write, classify_of_ge _ _ _ hge]
  | query =>
    cases henc
    rfl
  | poll =>
    cases henc
    cases ph with
    | poll => rfl
    | render => cases hsel
  | render =>
    cases henc
    cases ph with
    | poll => cases hsel
    | render => rfl
  | reset =>
    cases henc
    rfl
  | primActivate c d => cases henc
  | primExpired now e => cases henc
  | primSweep now => cases henc
  | primEncode => cases henc
  | primShiftOut b => cases henc

/-- Settles O4: only a frame in range classifies as ACTIVATE, and its two duration bytes are those of the duration. -/
theorem encodeOfActivationFrame : Obligations.EncodeOfActivationFrame := by
  intro n bytes c d hlen hcl
  obtain ⟨-, hshort⟩ | ⟨c', dlo, dhi, rest, rfl, ⟨-, hrange⟩ | ⟨-, hact⟩⟩ := classify_cases n bytes
  · rw [hshort] at hcl
    cases hcl
  · rw [hrange] at hcl
    cases hcl
  · rw [hact] at hcl
    cases hcl
    have hrest : rest = [] := List.eq_nil_of_length_eq_zero (by simpa using hlen)
    simp only [encode, durationLow_durationOf, durationHigh_durationOf, hrest]

/-- A frame of the bytes of a 24-bit table word (R80). -/
theorem frameOfTableWord_24 (w : Nat) :
    frameOfTableWord 24 w = [BitVec.ofNat 8 (w >>> 16), BitVec.ofNat 8 (w >>> 8), BitVec.ofNat 8 w] := rfl

/-- A three-byte frame classifies as some ACTIVATE iff its first byte is in range (R73). -/
theorem exists_classify_activate_iff (n : Nat) (c dlo dhi : Byte) :
    (∃ c' d, classify n [c, dlo, dhi] = .activate c' d) ↔ c.toNat < n := by
  constructor
  · rintro ⟨c', d, h⟩
    by_contra hge
    rw [classify_of_ge _ _ _ (Nat.not_lt.mp hge)] at h
    cases h
  · exact fun hlt => ⟨c, _, classify_of_lt dlo dhi [] hlt⟩

/-- The mask of ACTIVATE clears exactly the words below `2^18`: it keeps bits 18 to 23 (R80). -/
theorem and_activateMask_eq_zero_iff {w : Nat} (hw : w < 2 ^ 24) : w &&& 0xFC0000 = 0 ↔ w < 2 ^ 18 := by
  have hmask : w &&& 0xFC0000 = w / 2 ^ 18 * 2 ^ 18 := by
    apply Nat.eq_of_testBit_eq
    intro i
    rw [show (0xFC0000 : Nat) = (2 ^ 6 - 1) * 2 ^ 18 from rfl, Nat.testBit_and, Nat.testBit_mul_two_pow,
      Nat.testBit_mul_two_pow, Nat.testBit_two_pow_sub_one, Nat.testBit_div_two_pow]
    by_cases hlow : 18 ≤ i
    · by_cases hhigh : i < 24
      · simp [hlow]
        omega
      · have hclear : w.testBit i = false :=
          Nat.testBit_lt_two_pow (Nat.lt_of_lt_of_le hw (Nat.pow_le_pow_right (by decide) (Nat.not_lt.mp hhigh)))
        simp [hlow, hclear]
    · simp [hlow]
  omega

/-- Settles O6: a word reads as ACTIVATE iff its top byte is below 4 (`exists_classify_activate_iff`), that is iff it is
below `2^18`, which the mask tests (`and_activateMask_eq_zero_iff`). -/
theorem tableMaskSelectsActivate : Obligations.TableMaskSelectsActivate := by
  intro w hw
  have htop : (BitVec.ofNat 8 (w >>> 16)).toNat < 4 ↔ w < 2 ^ 18 := by
    rw [BitVec.toNat_ofNat, Nat.shiftRight_eq_div_pow]
    omega
  rw [and_activateMask_eq_zero_iff hw, ← htop, ← exists_classify_activate_iff, ← frameOfTableWord_24 w]
  simp only [decodeTableWord, decode_write, Except.toOption, Option.some.injEq, Build.reference]

/-- Settles O2: the classification reads the first three bytes only. -/
theorem longFrameTailIgnored : Obligations.LongFrameTailIgnored := fun _ _ _ _ _ => rfl

/-- What a frame classifies as is well formed, is selected in both phases and is no primitive (R73). -/
theorem classify_wf (n : Nat) (ph : Phase) (bytes : List Byte) :
    (classify n bytes).wf n = true ∧ (classify n bytes).selectedIn ph = true ∧
      (classify n bytes).isPrimitive = false := by
  obtain ⟨-, h⟩ | ⟨c, dlo, dhi, rest, -, ⟨hge, h⟩ | ⟨hlt, h⟩⟩ := classify_cases n bytes
  · rw [h]
    exact ⟨rfl, rfl, rfl⟩
  · rw [h]
    exact ⟨decide_eq_true hge, rfl, rfl⟩
  · rw [h]
    exact ⟨decide_eq_true hlt, rfl, rfl⟩

/-- Settles O5, by the event: a frame by its classification (`classify_wf`), the internal event by the phase. -/
theorem decodedIsWellFormed : Obligations.DecodedIsWellFormed := by
  intro n ph e i h
  cases e with
  | clock δ => cases h
  | write bytes =>
    cases h
    exact classify_wf n ph bytes
  | read =>
    cases h
    exact ⟨rfl, rfl, rfl⟩
  | internal =>
    cases h
    cases ph <;> exact ⟨rfl, rfl, rfl⟩
  | power =>
    cases h
    exact ⟨rfl, rfl, rfl⟩

/-- Settles O7: each frame by the range of its first byte, the fourth by its length. -/
theorem vectorFramesDecode : Obligations.VectorFramesDecode :=
  ⟨classify_of_lt _ _ _ (by decide), classify_of_lt _ _ _ (by decide), classify_of_ge _ _ _ (by decide),
    classify_of_short 4 (by decide), classify_of_lt _ _ _ (by decide)⟩

end Sys2Proof.Machine

/-! Proofs: the channel table. -/

namespace Sys2Proof.Machine

/-- A sweep of a table with nothing active changes nothing, whatever the clock value (R104). -/
theorem sweepChanged_of_inactive {s : State} (now : Word) (hoff : ∀ i, i < s.build.n → ¬ s.ActiveAt i) :
    sweepChanged now s = false := by
  rw [Bool.eq_false_iff, Ne, sweepChanged_iff]
  rintro ⟨i, ch, hi, hch, hactive, -⟩
  exact hoff i hi ⟨ch, hch, hactive⟩

/-- Settles O23: nothing is due (`sweepChanged_of_inactive`), so the POLL changes nothing (`polled_of_unchanged`). -/
theorem pollWithNothingActiveChangesNothing : Obligations.PollWithNothingActiveChangesNothing := by
  intro s hoff
  rw [exec_poll, polled_of_unchanged (sweepChanged_of_inactive s.clock hoff)]

/-- `activate` writes the table only (R100, R101). -/
theorem activate_frame (c : Byte) (d : Duration) (s : State) :
    activate c d s = { s with chans := (activate c d s).chans } := by
  apply State.ext <;> simp

/-- `activate` leaves the entry of every other channel as it is (R100). -/
theorem activate_getElem?_of_ne {c : Byte} {i : Nat} (d : Duration) (s : State) (h : i ≠ channelOperand c) :
    (activate c d s).chans[i]? = s.chans[i]? := by
  by_cases hlt : channelOperand c < s.build.n
  · rw [activate_chans_of_lt hlt, List.getElem?_set_ne h.symm]
  · rw [activate_of_ge (Nat.not_lt.mp hlt)]

/-- Settles O24: the frame (`activate_frame`), and the table in range (`activate_getElem?_self`,
`activate_getElem?_of_ne`) and out of range (`activate_of_ge`). -/
theorem primitiveActivateWritesItsChannel : Obligations.PrimitiveActivateWritesItsChannel := by
  intro c d s hlen
  refine ⟨returning .none (activate c d s), rfl, ?frame, ?inRange, ?outOfRange⟩
  case frame => exact congrArg (returning .none) (activate_frame c d s)
  case inRange => exact fun hlt => ⟨activate_getElem?_self hlen hlt, fun _ => activate_getElem?_of_ne d s⟩
  case outOfRange =>
    intro hge
    rw [returning_chans, activate_of_ge hge]

/-- The wraparound-safe comparison asks for the sign of the 32-bit difference (R102). -/
theorem expired_eq_signed (now e : Word) : expired now e = decide (0 ≤ (now - e).toInt) := by
  rw [expired, BitVec.toInt_eq_toNat_cond]
  have := (now - e).isLt
  congr 1
  apply propext
  split <;> omega

/-- Settles O26: the primitive writes `ret` only, with the value of the comparison (`expired_eq_signed`). -/
theorem primitiveExpiredIsSignedComparison : Obligations.PrimitiveExpiredIsSignedComparison := by
  intro now e s
  rw [← expired_eq_signed]
  rfl

/-- The loop of `sweep` depends only on which channels it visits: the table and the flag by their laws
(`sweepFold_getElem?`, `sweepFold_changed`), which ask for membership alone (R105). -/
theorem sweepOver_eq_of_mem_iff {now : Word} {is js : List Nat} (chans : List Chan) (h : ∀ i, i ∈ is ↔ i ∈ js) :
    sweepOver now is chans = sweepOver now js chans := by
  apply Prod.ext
  · apply List.ext_getElem?
    intro i
    simp only [sweepOver, sweepFold_getElem?, h]
  · rw [Bool.eq_iff_iff]
    simp only [sweepOver, sweepFold_changed, h]

/-- Settles O32: a permutation visits the same channels (`sweepOver_eq_of_mem_iff`). -/
theorem sweepOrderDoesNotMatter : Obligations.SweepOrderDoesNotMatter :=
  fun _ _ _ chans hperm => sweepOver_eq_of_mem_iff chans fun _ => hperm.mem_iff

/-- The comparison against an expiry set at `t` for `d` reads the time elapsed since `t`, less `d`, modulo `2^32`
(R100, R102). -/
theorem sub_expiry_eq (t t' : Word) (d : Duration) :
    t' - (t + durationOperand d) = (t' - t) - durationOperand d := 
  sub_add_eq_sub_sub t' t (durationOperand d)

/-- Settles O33: the time elapsed less the duration is below `2^31` iff it lies in the window, because the duration
itself, of 16 bits, is far below `2^31` and wraps to the upper half when it exceeds the time elapsed. -/
theorem expiryHorizon : Obligations.ExpiryHorizon := by
  intro t t' d
  have hd : d.toNat < 2 ^ 16 := d.isLt
  have helapsed := (t' - t).isLt
  rw [expired, decide_eq_true_iff, sub_expiry_eq, BitVec.toNat_sub, durationOperand_toNat]
  omega

/-- Settles O35: the expiry is the clock value itself, so every sweep within the horizon finds it passed
(`ExpiryHorizon` with `d = 0`). -/
theorem zeroDurationEndsAtFirstSweep : Obligations.ZeroDurationEndsAtFirstSweep := by
  intro c s t' hlen hlt hhorizon
  have hself : (activate c 0 s).chans[c.toNat]? = some ⟨true, s.clock + durationOperand 0⟩ :=
    activate_getElem?_self hlen hlt
  have hexpired : expired t' (s.clock + durationOperand 0) = true :=
    (expiryHorizon s.clock t' 0).mpr ⟨Nat.zero_le _, by simpa using hhorizon⟩
  refine ⟨⟨_, hself, rfl⟩, ?off, (sweepChanged_iff t' _).mpr ⟨c.toNat, _, by simpa using hlt, hself, rfl, hexpired⟩⟩
  case off =>
    rintro ⟨ch, hch, hactive⟩
    rw [sweep_chans, sweepTable_getElem?_of_some hself, if_pos ⟨by simpa using hlt, rfl, hexpired⟩] at hch
    cases hch
    cases hactive

end Sys2Proof.Machine

/-! Proofs: the serial output driver. -/

namespace Sys2Proof.Machine

/-- Settles O29: the transfer's frame (`shiftOut_frame`) with the wires and the external register that it leaves
(`shiftOut_spec`). -/
theorem primitiveShiftOutShowsByte : Obligations.PrimitiveShiftOutShowsByte := by
  intro b s hquiet
  obtain ⟨⟨hsrclk, hrclk⟩, hstorage, hshift, hser⟩ := shiftOut_spec hquiet b
  show Host.Outcome.next (returning .none (shiftOut b s)) = _
  rw [shiftOut_frame b s, hsrclk, hrclk, hstorage, hshift, hser]
  rfl

/-- Which events of a transfer are a given write to a clock wire does not depend on the byte: only the writes to SER carry
its bits (R141). -/
theorem pinEvent_eq_iff_of_wire_ne_ser {p : PinWrite} (hp : p.wire ≠ .ser) (b : Byte) (k : Nat) :
    pinEvent b k = p ↔ pinEvent 0 k = p := by
  unfold pinEvent
  split_ifs with hlatch hunlatch hdata hrise
  · rfl
  · rfl
  · exact ⟨fun h => absurd (congrArg PinWrite.wire h).symm hp, fun h => absurd (congrArg PinWrite.wire h).symm hp⟩
  · rfl
  · rfl

/-- Settles O37: the places of the clock wires' writes do not depend on the byte (`pinEvent_eq_iff_of_wire_ne_ser`), so
those of the transfer of 0x00 are everyone's. -/
theorem oneLatchPulseAfterEightShifts : Obligations.OneLatchPulseAfterEightShifts := by
  intro b
  have hrclk (v : Bool) (k : Nat) := pinEvent_eq_iff_of_wire_ne_ser (p := ⟨.rclk, v⟩) (by simp) b k
  have hsrclk (v : Bool) (k : Nat) := pinEvent_eq_iff_of_wire_ne_ser (p := ⟨.srclk, v⟩) (by simp) b k
  simp only [hrclk, hsrclk]
  exact ⟨rfl, by decide, by decide, by decide, by decide⟩

/-- A transfer has 26 events (R141). -/
theorem pinEvents_length (b : Byte) : (pinEvents b).length = 26 := rfl

/-- The driver after the first `k` events of a transfer, `k` no more than the transfer has. -/
theorem driveAll_take_pinEvents (b : Byte) {k : Nat} (hk : k ≤ 26) (s : State) :
    driveAll ((pinEvents b).take k) s = driveTo b k s := by
  rw [take_pinEvents b hk, driveTo]

/-- Of the 26 events only some whose number is a multiple of 3 write SER (R141). -/
theorem mod_three_of_pinEvent_wire_eq_ser {b : Byte} {k : Nat} (h : (pinEvent b k).wire = .ser) : k % 3 = 0 := by
  unfold pinEvent at h
  split_ifs at h
  assumption

/-- Before an event whose number is a multiple of 3 both clocks are low (R141, R142). -/
theorem midTransfer_quiet {s : State} {b : Byte} {k : Nat} (h : s.MidTransfer b k) (hk : k % 3 = 0) : s.Quiet where
  srclk := h.srclk.trans (decide_eq_false (by omega))
  rclk := h.rclk.trans (decide_eq_false (by omega))

/-- Settles O38: an event that writes SER has a multiple of 3 for its number (`mod_three_of_pinEvent_wire_eq_ser`), where
the transfer so far (`quiet_driveTo`) has the clocks low (`midTransfer_quiet`). -/
theorem serMovesOnlyWhileClocksLow : Obligations.SerMovesOnlyWhileClocksLow := by
  intro b s k hquiet hk hser
  have hmod : k % 3 = 0 := mod_three_of_pinEvent_wire_eq_ser hser
  rw [driveAll_take_pinEvents b (by omega)]
  exact midTransfer_quiet (quiet_driveTo hquiet b (by omega)) hmod

/-- Only RCLK moves the visible output (R151, R152). -/
theorem drive_storage_of_wire_ne_rclk {p : PinWrite} (s : State) (hp : p.wire ≠ .rclk) :
    (drive s p).storage = s.storage := by
  unfold drive
  split
  case h_1 => rfl
  case h_2 => rfl
  case h_3 h => exact absurd h hp

/-- Before `e_24` no event writes RCLK (R141, R143). -/
theorem pinEvent_wire_ne_rclk (b : Byte) {k : Nat} (hk : k < 24) : (pinEvent b k).wire ≠ .rclk := by
  unfold pinEvent
  rw [if_neg (by omega), if_neg (by omega)]
  split_ifs <;> simp

/-- The visible output is what it was until `e_24` (R147). -/
theorem driveTo_storage (b : Byte) {k : Nat} (hk : k ≤ 24) (s : State) : (driveTo b k s).storage = s.storage := by
  induction k with
  | zero => rfl
  | succ k ih =>
    rw [driveTo_succ, drive_storage_of_wire_ne_rclk _ (pinEvent_wire_ne_rclk b (by omega)), ih (by omega)]

/-- Settles O39: before `e_24` by `driveTo_storage`, right after it by the transfer's own invariant, and after the whole
transfer by `shiftOut_spec`. -/
theorem outputChangesOnlyAtLatch : Obligations.OutputChangesOnlyAtLatch := by
  intro b s k hquiet
  refine ⟨fun hk => ?before, fun hk => ?after⟩
  case before =>
    rw [driveAll_take_pinEvents b (by omega)]
    exact driveTo_storage b hk s
  case after =>
    obtain rfl | hk := Nat.eq_or_lt_of_le hk
    · rw [driveAll_take_pinEvents b (by decide)]
      exact (quiet_driveTo hquiet b (Nat.le_refl 25)).latched rfl
    · rw [List.take_of_length_le ((pinEvents_length b).trans_le hk)]
      exact (shiftOut_spec hquiet b).2.1

theorem driveAll_append (ps qs : List PinWrite) (s : State) :
    driveAll (ps ++ qs) s = driveAll qs (driveAll ps s) := List.foldl_append

/-- One round of shifting: from low clocks it shifts its bit in and leaves the clocks low (R141, R150). -/
theorem driveAll_shiftRound {s : State} (h : s.Quiet) (b : Byte) (j : Nat) :
    (driveAll (shiftRound b j) s).Quiet ∧
      (driveAll (shiftRound b j) s).shiftStage = shiftIn s.shiftStage (b.getLsbD (7 - j)) := by
  refine ⟨⟨rfl, h.rclk⟩, ?_⟩
  simp [driveAll, shiftRound, drive, h.srclk]

/-- What is left of a transfer after `k` rounds: the other rounds and the pulse of RCLK (R141). -/
theorem drop_pinEvents (b : Byte) {k : Nat} (hk : k ≤ 8) :
    (pinEvents b).drop (3 * k) =
      (List.range' k (8 - k)).flatMap (shiftRound b) ++ [⟨.rclk, true⟩, ⟨.rclk, false⟩] := by
  interval_cases k <;> rfl

/-- The last `m` rounds of a transfer of `b` push the shift stage up by `m` places and bring in the low `m` bits of
`b`. -/
theorem driveAll_lastRounds {s : State} (h : s.Quiet) (b : Byte) {m : Nat} (hm : m ≤ 8) :
    (driveAll ((List.range' (8 - m) m).flatMap (shiftRound b)) s).Quiet ∧
      ∀ i, i < 8 → (driveAll ((List.range' (8 - m) m).flatMap (shiftRound b)) s).shiftStage.getLsbD i =
        if i < m then b.getLsbD i else s.shiftStage.getLsbD (i - m) := by
  induction m generalizing s with
  | zero => exact ⟨h, by simp [driveAll]⟩
  | succ m ih =>
    obtain ⟨hquiet, hshift⟩ := driveAll_shiftRound h b (8 - (m + 1))
    obtain ⟨hquiet', hbits⟩ := ih hquiet (by omega)
    rw [List.range'_succ, List.flatMap_cons, driveAll_append, show 8 - (m + 1) + 1 = 8 - m by omega]
    refine ⟨hquiet', fun i hi => ?_⟩
    rw [hbits i hi, hshift]
    by_cases hlow : i < m
    · rw [if_pos hlow, if_pos (by omega)]
    · rw [if_neg hlow, getLsbD_shiftIn _ _ _ (by omega)]
      by_cases him : i = m
      · subst him
        rw [if_pos (by omega), if_pos (by omega), show 7 - (8 - (i + 1)) = i by omega]
      · rw [if_neg (by omega), if_neg (by omega), Nat.sub_sub]

/-- The pulse of RCLK shows the shift stage (R151). -/
theorem driveAll_latchPulse_storage {s : State} (h : s.Quiet) :
    (driveAll [⟨.rclk, true⟩, ⟨.rclk, false⟩] s).storage = s.shiftStage := by
  simp [driveAll, drive, h.rclk]

/-- Settles O40: after `k` rounds of `a` the clocks are low, so the transfer of `b` leaves `b` in the shift stage
(`shiftOut_spec`); the last `8 - k` rounds of `a` push it up (`driveAll_lastRounds`), and the pulse of RCLK shows the
mixture. -/
theorem tornOutputFormula : Obligations.TornOutputFormula := by
  intro a b k s hquiet hk
  have hfirst : (driveAll ((pinEvents a).take (3 * k)) s).Quiet := by
    rw [driveAll_take_pinEvents a (by omega)]
    exact midTransfer_quiet (quiet_driveTo hquiet a (by omega)) (by omega)
  obtain ⟨hquietB, -, hshiftB, -⟩ := shiftOut_spec hfirst b
  obtain ⟨hquietA, hbits⟩ := driveAll_lastRounds hquietB a (Nat.sub_le 8 k)
  rw [Nat.sub_sub_self hk] at hquietA hbits
  rw [drop_pinEvents a hk, driveAll_append, driveAll_latchPulse_storage hquietA]
  apply BitVec.eq_of_getLsbD_eq
  intro i hi
  rw [hbits i hi, hshiftB]
  simp only [BitVec.getLsbD_or, BitVec.getLsbD_shiftLeft, BitVec.getLsbD_and, BitVec.getLsbD_ofNat,
    Nat.testBit_two_pow_sub_one, hi, decide_true, Bool.true_and]
  by_cases hlow : i < 8 - k
  · simp [hlow]
  · simp [hlow]

end Sys2Proof.Machine

/-! Proofs: rendering, the handlers and the power cycle. -/

namespace Sys2Proof.Machine

/-- A whole render from low clocks shows the encoded state (R172, R144, R153). -/
theorem renderWhole_spec {s : State} (h : s.Quiet) :
    (renderWhole s).Quiet ∧ (renderWhole s).storage = encodeState s ∧ (renderWhole s).shiftStage = encodeState s ∧
      (renderWhole s).ser = (encodeState s).getLsbD 0 := by
  have hquiet : (setLastOut (encodeState s) s).Quiet := ⟨h.srclk, h.rclk⟩
  obtain ⟨⟨hsrclk, hrclk⟩, hstorage, hshift, hser⟩ := shiftOut_spec hquiet (encodeState s)
  exact ⟨⟨hsrclk, hrclk⟩, hstorage, hshift, hser⟩

/-- What a whole render writes: `lastOut`, the wires, the external register and the record (R172). -/
theorem renderWhole_frame (s : State) :
    renderWhole s =
      { s with
        lastOut := (renderWhole s).lastOut
        ser := (renderWhole s).ser
        srclk := (renderWhole s).srclk
        rclk := (renderWhole s).rclk
        shiftStage := (renderWhole s).shiftStage
        storage := (renderWhole s).storage
        rendered := true
        obs := s.obs ++ (pinEvents (renderWhole s).lastOut).map .pin } := by
  apply State.ext <;> simp

/-- ACTIVATE always completes, with its channel activated and the table rendered (R174, R200). -/
theorem exec_activate (c : Byte) (d : Duration) (s : State) :
    exec (.activate c d) s = .next (render .bus (activate c d s)) := rfl

/-- RENDER at the step level (R179). -/
theorem exec_render_step {s : State} (h : s.build.level = .step) :
    exec .render s = .next { renderWhole s with phase := .poll } := by
  simp only [exec, execRender, h, render_step .main h]

/-- RENDER at the pin level (R185). -/
theorem exec_render_pin {s : State} (h : s.build.level = .pin) : exec .render s = .next (renderStart .main s) := by
  simp only [exec, execRender, h, render_pin .main h]

/-- A render leaves the encoded state alone: it writes neither the build nor the table (R130, R172). -/
@[simp] theorem encodeState_render (o : Owner) (s : State) : encodeState (render o s) = encodeState s :=
  encodeState_congr (render_build o s) (render_chans o s)

/-- Settles O14: the table by the primitive (`activate_getElem?_self`, `activate_getElem?_of_ne`), the outputs by the
whole render (`renderWhole_spec`), the rest by the two frames (`renderWhole_frame`, `activate_frame`). -/
theorem activateAtStepLevel : Obligations.ActivateAtStepLevel := by
  intro c d s hlevel hlen hquiet hlt
  have hrender : render .bus (activate c d s) = renderWhole (activate c d s) := render_step .bus (by simpa using hlevel)
  have hquiet' : (activate c d s).Quiet := ⟨by simpa using hquiet.srclk, by simpa using hquiet.rclk⟩
  have hlastOut : (renderWhole (activate c d s)).lastOut = encodeState (activate c d s) := renderWhole_lastOut _
  obtain ⟨hquietT, hstorage, hshift, hser⟩ := renderWhole_spec hquiet'
  refine ⟨render .bus (activate c d s), exec_activate c d s, ?self, ?others, ?encoded, ?rest⟩
  case self =>
    rw [render_chans]
    exact activate_getElem?_self hlen hlt
  case others =>
    rw [render_chans]
    exact fun i => activate_getElem?_of_ne d s
  case encoded => simp
  case rest =>
    rw [hrender, hlastOut]
    refine ⟨hstorage, hshift, hquietT, hser, ?_⟩
    apply State.ext <;> simp

/-- Settles O15: the table by the primitive, as at the step level; the render only starts, which writes `lastOut` and
`xfer`. -/
theorem activateAtPinLevel : Obligations.ActivateAtPinLevel := by
  intro c d s hlevel hlen hlt
  have hrender : render .bus (activate c d s) = renderStart .bus (activate c d s) :=
    render_pin .bus (by simpa using hlevel)
  refine ⟨render .bus (activate c d s), exec_activate c d s, ?self, ?others, ?encoded, ?started, ?frame⟩
  case self =>
    rw [render_chans]
    exact activate_getElem?_self hlen hlt
  case others =>
    rw [render_chans]
    exact fun i => activate_getElem?_of_ne d s
  case encoded => simp
  case started =>
    rw [hrender]
    rfl
  case frame =>
    rw [hrender]
    apply State.ext <;> simp

/-- A started transfer, once it has ended, has added the 26 pin events of its byte to the record (R141, R181). -/
theorem finished_renderStart_obs (o : Owner) (s : State) :
    (renderStart o s).finished.obs = s.obs ++ (pinEvents (encodeState s)).map .pin := by
  simp [finished_start (renderStart_xfer o s)]

/-- Once it has ended, a started transfer leaves the driver idle (R185). -/
theorem finished_renderStart_xfer (o : Owner) (s : State) : (renderStart o s).finished.xfer = .idle := by
  rw [finished_start (renderStart_xfer o s), endTransfer_xfer]

/-- Settles O16: at the step level the record is that of the whole render, at the pin level that of the started transfer
once it has ended (`finished_renderStart_obs`); no premise on the channel or the driver is needed. -/
theorem everyActivateTransfersFully : Obligations.EveryActivateTransfersFully := by
  intro c d s
  refine ⟨render .bus (activate c d s), exec_activate c d s, by simp, fun hlevel => ?step, fun hlevel => ?pin⟩
  case step =>
    rw [render_step .bus (by simpa using hlevel), renderWhole_obs, renderWhole_lastOut, activate_obs]
  case pin =>
    rw [render_pin .bus (by simpa using hlevel)]
    refine ⟨rfl, finished_renderStart_xfer .bus _, ?_⟩
    rw [finished_renderStart_obs, renderStart_lastOut, activate_obs]

/-- Settles O20: the outputs by the whole render (`renderWhole_spec`), the rest by its frame. -/
theorem renderAtStepLevel : Obligations.RenderAtStepLevel := by
  intro s hlevel hquiet
  obtain ⟨⟨hsrclk, hrclk⟩, hstorage, hshift, hser⟩ := renderWhole_spec hquiet
  refine ⟨_, exec_render_step hlevel, rfl, renderWhole_lastOut s, ?_⟩
  simp only [renderWhole_lastOut]
  refine ⟨hstorage, hshift, ⟨hsrclk, hrclk⟩, hser, ?_⟩
  apply State.ext <;> simp

/-- Settles O21: at the pin level the render only starts (`exec_render_pin`). -/
theorem renderAtPinLevel : Obligations.RenderAtPinLevel := fun _ hlevel => exec_render_pin hlevel

/-- QUERY always completes, with the reply of `lastOut` (R177, R200). -/
theorem exec_query (s : State) : exec .query s = .next (reply s.lastOut s) := rfl

/-- Settles O18: QUERY is the reply of `lastOut`, which the record takes. -/
theorem queryRepliesLastOut : Obligations.QueryRepliesLastOut := exec_query

/-- RESET always completes, with the power cycle (R230, R200). -/
theorem exec_reset (s : State) : exec .reset s = .next (powerCycle s) := rfl

/-- After a power cycle no channel is active (R35, R230). -/
theorem not_activeAt_powerCycle (s : State) (i : Nat) : ¬ (powerCycle s).ActiveAt i := by
  rintro ⟨ch, hch, hactive⟩
  simp only [powerCycle, powerUp_chans, driveLow_chans, resetRegisters_chans, List.getElem?_replicate,
    Option.ite_none_right_eq_some, Option.some.injEq] at hch
  obtain ⟨-, rfl⟩ := hch
  cases hactive

/-- Settles O22: the registers, the wires and the surroundings each by their own part of the power cycle. -/
theorem resetRestoresInitialRegisters : Obligations.ResetRestoresInitialRegisters := by
  intro s
  refine ⟨powerCycle s, exec_reset s, by simp [powerCycle], not_activeAt_powerCycle s, ?_⟩
  simp [powerCycle]

/-- Settles O51: the render procedure keeps `phase` (`render_phase`), and so does every other part of a bus operation. -/
theorem busOperationsKeepPhase : Obligations.BusOperationsKeepPhase := by
  rintro i s t (⟨c, d, rfl⟩ | rfl | ⟨c, rfl⟩ | rfl) h
  · cases h
    rw [render_phase, activate_phase]
  · cases h
    rfl
  · cases h
    rfl
  · cases h
    exact reply_phase s.lastOut s

end Sys2Proof.Machine

/-! Proofs: the step and the transfer in progress. -/

namespace Sys2Proof.Machine

/-- An event that is enabled is taken (R173). -/
theorem step_of_deliver {s : State} (h : turn s.xfer s.nextEvent = .deliver) :
    step s = deliver s.nextEvent s.takeEvent := by
  simp only [step, h]

/-- An event that selects an operation runs it (R79). -/
theorem deliver_of_decode {s : State} {e : Event} {i : Instr} (h : decode s.build.n s.phase e = .ok i) :
    deliver e s = exec i s := by
  simp only [deliver, h]

/-- An event of the inbox that is held stays in it, so that the step is the next pin event of the same state (R59). -/
theorem step_of_held {s : State} {e : Event} {rest : List Event} (hinbox : s.inbox = e :: rest)
    (h : turn s.xfer e = .hold) : step s = .next (pinStep s) := by
  simp only [step, nextEvent_of_inbox hinbox, h]
  rw [← nextEvent_of_inbox hinbox, putBack_takeEvent hinbox]

/-- Into an empty inbox come the environment's events and then the block's own step (R57, R180). -/
theorem nextEvent_cons_takeEvent_inbox {s : State} (h : s.inbox = []) :
    s.nextEvent :: s.takeEvent.inbox = Config.environment s.draws ++ [.internal] := by
  have hcoming : s.coming = Config.environment s.draws ++ [.internal] := by simp only [State.coming, h]
  simp only [State.nextEvent, State.takeEvent, hcoming]
  cases Config.environment s.draws with
  | nil => rfl
  | cons e es => rfl

/-- Taking an event drawn into an empty inbox counts the draw and keeps the rest of what was drawn (logs 4, 5). -/
theorem takeEvent_of_empty {s : State} (h : s.inbox = []) :
    s.takeEvent = { s with inbox := s.takeEvent.inbox, draws := s.draws + 1 } := by
  simp only [State.takeEvent, h]

/-- Settles O8: the step is the operation decoded (`step_of_deliver`, `deliver_of_decode`); the event is the oldest of the
inbox, or the first of those drawn into an empty one (`nextEvent_cons_takeEvent_inbox`). -/
theorem stepRunsDecodedOperation : Obligations.StepRunsDecodedOperation := by
  refine ⟨fun s i hturn hdecode => ?run, fun s e rest h => ⟨nextEvent_of_inbox h, takeEvent_of_inbox h⟩,
    fun s h => ⟨nextEvent_cons_takeEvent_inbox h, takeEvent_of_empty h⟩⟩
  case run => rw [step_of_deliver hturn, deliver_of_decode (by simpa using hdecode)]

/-- The clock agent may always step (R31, R173). -/
@[simp] theorem turn_clock (x : Xfer) (δ : Word) : turn x (.clock δ) = .deliver := by
  cases x <;> rfl

/-- A power cycle may always come (R173). -/
@[simp] theorem turn_power (x : Xfer) : turn x .power = .deliver := by
  cases x <;> rfl

/-- A write frame is held during any transfer (R59). -/
theorem turn_write_of_busy {x : Xfer} (h : x ≠ .idle) (bytes : List Byte) : turn x (.write bytes) = .hold := by
  cases x with
  | idle => exact absurd rfl h
  | busy o b k => rfl

/-- Settles O10: a clock event is enabled in any state of the driver (`turn_clock`), and it selects no operation. -/
theorem clockStepChangesOnlyClock : Obligations.ClockStepChangesOnlyClock := by
  intro s δ rest hinbox
  rw [step_of_deliver (by rw [nextEvent_of_inbox hinbox, turn_clock]), nextEvent_of_inbox hinbox,
    takeEvent_of_inbox hinbox]
  rfl

/-- Settles O11: before `e_25` by `pinStep_busy`, at `e_25` by `pinStep_last`. -/
theorem internalStepDuringTransferIsPin : Obligations.InternalStepDuringTransferIsPin := by
  intro s o b k rest hx hinbox
  have hx' : ({ s with inbox := rest } : State).xfer = .busy o b k := hx
  have hstep : step s = .next (pinStep { s with inbox := rest }) := by
    simp only [step, nextEvent_of_inbox hinbox, takeEvent_of_inbox hinbox, hx, turn]
  refine ⟨_, hstep, fun hk => pinStep_busy hx' hk, fun hk => ?last⟩
  case last =>
    rw [pinStep_last hx' hk]
    cases o with
    | main => rfl
    | bus => simp [endTransfer]

/-- Settles O12: a held event is not lost and the step is a pin event (`step_of_held`); a read request during a main-loop
transfer is enabled. -/
theorem heldEventsWaitForTransfer : Obligations.HeldEventsWaitForTransfer := by
  intro s o b k rest hx
  have hheld {e : Event} (hinbox : s.inbox = e :: rest) (hturn : turn s.xfer e = .hold) :
      step s = .next (pinStep s) ∧ (pinStep s).inbox = s.inbox :=
    ⟨step_of_held hinbox hturn, pinStep_inbox s⟩
  refine ⟨fun bytes hinbox => hheld hinbox (by rw [hx]; rfl), fun hinbox => ⟨?bus, ?main⟩⟩
  case bus =>
    rintro rfl
    exact hheld hinbox (by rw [hx]; rfl)
  case main =>
    rintro rfl
    rw [step_of_deliver (by rw [nextEvent_of_inbox hinbox, hx]; rfl), nextEvent_of_inbox hinbox,
      takeEvent_of_inbox hinbox]
    rfl

/-- The internal step during a transfer is its next pin event (R173). -/
theorem turn_internal_of_busy {x : Xfer} (h : x ≠ .idle) : turn x .internal = .pin := by
  cases x with
  | idle => exact absurd rfl h
  | busy o b k => rfl

/-- How many pin events a transfer in progress has left (R141, R185). -/
def Xfer.left : Xfer → Nat
  | .idle => 0
  | .busy _ _ k => 26 - k.val

/-- A transfer in progress has an event left. -/
theorem Xfer.left_eq_zero_iff {x : Xfer} : x.left = 0 ↔ x = .idle := by
  cases x with
  | idle => simp [Xfer.left]
  | busy o b k =>
    have := k.isLt
    simp only [Xfer.left, reduceCtorEq, iff_false]
    omega

theorem Xfer.left_le (x : Xfer) : x.left ≤ 26 := by
  cases x with
  | idle => exact Nat.zero_le 26
  | busy o b k => exact Nat.sub_le 26 k.val

/-- A pin event of a transfer in progress is the next one, or the last one, which ends it (R185). -/
theorem pinStep_cases {s : State} {o : Owner} {b : Byte} {k : Fin 26} (h : s.xfer = .busy o b k) :
    (∃ hk : k.val < 25, pinStep s = { drive s (pinEvent b k.val) with xfer := .busy o b ⟨k.val + 1, by omega⟩ }) ∨
    (k.val = 25 ∧ pinStep s = endTransfer o (drive s (pinEvent b k.val))) := by
  by_cases hk : k.val < 25
  · exact .inl ⟨hk, pinStep_busy h hk⟩
  · have hlast : k.val = 25 := by omega
    refine .inr ⟨hlast, ?_⟩
    rw [pinStep_last h hlast, hlast]

/-- A change of the state that no pin event sees: it keeps `xfer`, and it may be made before or after a pin write, a move
of `xfer` and a transfer's end. -/
structure PinBlind (f : State → State) : Prop where
  xfer : ∀ s, (f s).xfer = s.xfer
  drive : ∀ s p, drive (f s) p = f (drive s p)
  move : ∀ s x, { f s with xfer := x } = f { s with xfer := x }
  endTransfer : ∀ o s, endTransfer o (f s) = f (endTransfer o s)

theorem PinBlind.pinStep {f : State → State} (hf : PinBlind f) (s : State) :
    Machine.pinStep (f s) = f (Machine.pinStep s) := by
  cases hx : s.xfer with
  | idle => rw [pinStep_idle hx, pinStep_idle ((hf.xfer s).trans hx)]
  | busy o b k =>
    have hx' : (f s).xfer = .busy o b k := (hf.xfer s).trans hx
    by_cases hk : k.val < 25
    · rw [pinStep_busy hx hk, pinStep_busy hx' hk, hf.drive, hf.move]
    · have hlast : k.val = 25 := by omega
      rw [pinStep_last hx hlast, pinStep_last hx' hlast, hf.drive, hf.endTransfer]

theorem PinBlind.pinSteps {f : State → State} (hf : PinBlind f) (m : Nat) (s : State) :
    Machine.pinSteps m (f s) = f (Machine.pinSteps m s) := by
  induction m generalizing s with
  | zero => rfl
  | succ m ih => rw [Machine.pinSteps, Machine.pinSteps, hf.pinStep, ih]

/-- Each pin event leaves one fewer. -/
theorem pinStep_left (s : State) : (pinStep s).xfer.left = s.xfer.left - 1 := by
  cases hx : s.xfer with
  | idle => rw [pinStep_idle hx, hx]; rfl
  | busy o b k =>
    obtain ⟨hk, hpin⟩ | ⟨hk, hpin⟩ := pinStep_cases hx
    · rw [hpin]
      simp only [Xfer.left]
      omega
    · rw [hpin]
      simp only [endTransfer_xfer, Xfer.left]
      omega

theorem pinSteps_left (m : Nat) (s : State) : (pinSteps m s).xfer.left = s.xfer.left - m := by
  induction m generalizing s with
  | zero => rfl
  | succ m ih => rw [pinSteps, ih, pinStep_left]; omega

@[simp] theorem pinSteps_build (m : Nat) (s : State) : (pinSteps m s).build = s.build := by
  induction m generalizing s <;> simp_all [pinSteps]
@[simp] theorem pinSteps_chans (m : Nat) (s : State) : (pinSteps m s).chans = s.chans := by
  induction m generalizing s <;> simp_all [pinSteps]
@[simp] theorem pinSteps_lastOut (m : Nat) (s : State) : (pinSteps m s).lastOut = s.lastOut := by
  induction m generalizing s <;> simp_all [pinSteps]
@[simp] theorem pinSteps_clock (m : Nat) (s : State) : (pinSteps m s).clock = s.clock := by
  induction m generalizing s <;> simp_all [pinSteps]
@[simp] theorem pinSteps_inbox (m : Nat) (s : State) : (pinSteps m s).inbox = s.inbox := by
  induction m generalizing s <;> simp_all [pinSteps]
@[simp] theorem pinSteps_draws (m : Nat) (s : State) : (pinSteps m s).draws = s.draws := by
  induction m generalizing s <;> simp_all [pinSteps]
@[simp] theorem pinSteps_ret (m : Nat) (s : State) : (pinSteps m s).ret = s.ret := by
  induction m generalizing s <;> simp_all [pinSteps]

/-- While a write frame is held, the machine runs the pin events left and no other step (R59, R146). -/
theorem run_held {m : Nat} {s : State} {bytes : List Byte} {rest : List Event} (hinbox : s.inbox = .write bytes :: rest)
    (hm : m ≤ s.xfer.left) : Sys2Proof.core.run m s = .next (pinSteps m s) := by
  induction m generalizing s with
  | zero => rfl
  | succ m ih =>
    have hbusy : s.xfer ≠ .idle := by
      rw [Ne, ← Xfer.left_eq_zero_iff]
      omega
    rw [run_succ (step_of_held hinbox (turn_write_of_busy hbusy bytes))]
    exact ih (by rwa [pinStep_inbox]) (by rw [pinStep_left]; omega)

/-- Settles O13: the frame is held until no pin event is left (`run_held`, `pinSteps_left`), and the idle driver then
takes it (`step_write_of_idle`). -/
theorem heldFrameRunsAfterTransfer : Obligations.HeldFrameRunsAfterTransfer := by
  intro s o b k bytes rest hx hinbox
  have hleft : s.xfer.left = 26 - k.val := by rw [hx]; rfl
  have hidle : (pinSteps (26 - k.val) s).xfer = .idle := by
    rw [← Xfer.left_eq_zero_iff, pinSteps_left, hleft, Nat.sub_self]
  refine ⟨pinSteps (26 - k.val) s, run_held hinbox hleft.ge, hidle, by simp, by simp, by simp, by simp, ?next⟩
  case next =>
    rw [step_write_of_idle hidle (by rwa [pinSteps_inbox]), pinSteps_build]

/-- Two states with the same wires and the same external register. -/
structure State.SameWires (s t : State) : Prop where
  ser : s.ser = t.ser
  srclk : s.srclk = t.srclk
  rclk : s.rclk = t.rclk
  shiftStage : s.shiftStage = t.shiftStage
  storage : s.storage = t.storage

/-- What a pin write does to the wires and the external register depends on them alone (R13, R150, R151). -/
theorem State.SameWires.drive {s t : State} (h : s.SameWires t) (p : PinWrite) :
    (Machine.drive s p).SameWires (Machine.drive t p) := by
  obtain ⟨hser, hsrclk, hrclk, hshift, hstorage⟩ := h
  unfold Machine.drive
  split
  case h_1 => exact ⟨rfl, hsrclk, hrclk, hshift, hstorage⟩
  case h_2 => exact ⟨hser, rfl, hrclk, by simp only [hser, hsrclk, hshift], hstorage⟩
  case h_3 => exact ⟨hser, hsrclk, rfl, hshift, by simp only [hrclk, hshift, hstorage]⟩

theorem State.SameWires.driveAll {s t : State} (h : s.SameWires t) (ps : List PinWrite) :
    (Machine.driveAll ps s).SameWires (Machine.driveAll ps t) := by
  induction ps generalizing s t with
  | nil => exact h
  | cons p ps ih => exact ih (h.drive p)

/-- A pin event of a transfer in progress moves the wires and the external register as its pin write does, records it
alone, and leaves `lastOut` and the table (R185). -/
theorem pinStep_performs {s : State} {o : Owner} {b : Byte} {k : Fin 26} (h : s.xfer = .busy o b k) :
    (pinStep s).SameWires (drive s (pinEvent b k.val)) ∧ (pinStep s).obs = s.obs ++ [.pin (pinEvent b k.val)] ∧
      (∀ hk : k.val < 25, (pinStep s).xfer = .busy o b ⟨k.val + 1, by omega⟩) ∧
      (k.val = 25 → (pinStep s).xfer = .idle) := by
  obtain ⟨hk, hpin⟩ | ⟨hk, hpin⟩ := pinStep_cases h
  · rw [hpin]
    exact ⟨⟨rfl, rfl, rfl, rfl, rfl⟩, drive_obs s _, fun _ => rfl, fun hlast => absurd hlast hk.ne⟩
  · rw [hpin]
    exact ⟨⟨rfl, rfl, rfl, rfl, rfl⟩, drive_obs s _, fun hlt => absurd hk hlt.ne, fun _ => rfl⟩

/-- The same block in other surroundings: another clock value, other events to come. -/
def State.around (c : Word) (es : List Event) (n : Nat) (s : State) : State :=
  { s with clock := c, inbox := es, draws := n }

theorem sameWires_around (c : Word) (es : List Event) (n : Nat) (s : State) : (s.around c es n).SameWires s :=
  ⟨rfl, rfl, rfl, rfl, rfl⟩

theorem takeEvent_eq_around (s : State) :
    s.takeEvent = s.around s.clock s.takeEvent.inbox s.takeEvent.draws := rfl

/-- Only an idle driver takes a write frame (R59). -/
theorem idle_of_turn_write {x : Xfer} {bytes : List Byte} (h : turn x (.write bytes) = .deliver) : x = .idle := by
  by_contra hbusy
  rw [turn_write_of_busy hbusy] at h
  cases h

/-- Only an idle driver takes a main-loop step (R173). -/
theorem idle_of_turn_internal {x : Xfer} (h : turn x .internal = .deliver) : x = .idle := by
  by_contra hbusy
  rw [turn_internal_of_busy hbusy] at h
  cases h

/-- The steps of R173, one constructor per agent's action, with the state each one reaches. -/
inductive StepRule (s : State) : State → Prop
  | pin (es : List Event) (n : Nat) (hturn : turn s.xfer s.nextEvent ≠ .deliver) :
      StepRule s (pinStep (s.around s.clock es n))
  | clock (δ : Word) (hev : s.nextEvent = .clock δ) : StepRule s (advanceClock δ s.takeEvent)
  | power (hev : s.nextEvent = .power) : StepRule s (powerCycle s.takeEvent)
  | query (hev : s.nextEvent = .read) (hturn : turn s.xfer s.nextEvent = .deliver) :
      StepRule s (reply s.lastOut s.takeEvent)
  | discard (bytes : List Byte) (hev : s.nextEvent = .write bytes) (hidle : s.xfer = .idle) : StepRule s s.takeEvent
  | activate (bytes : List Byte) (c : Byte) (d : Duration) (hev : s.nextEvent = .write bytes) (hidle : s.xfer = .idle)
      (hclass : classify s.build.n bytes = .activate c d) :
      StepRule s (render .bus (activate c d s.takeEvent))
  | poll (hev : s.nextEvent = .internal) (hidle : s.xfer = .idle) (hphase : s.phase = .poll) :
      StepRule s (polled s.takeEvent)
  | renderWhole (hev : s.nextEvent = .internal) (hidle : s.xfer = .idle) (hphase : s.phase = .render)
      (hlevel : s.build.level = .step) : StepRule s { renderWhole s.takeEvent with phase := .poll }
  | renderStart (hev : s.nextEvent = .internal) (hidle : s.xfer = .idle) (hphase : s.phase = .render)
      (hlevel : s.build.level = .pin) : StepRule s (renderStart .main s.takeEvent)

/-- A main-loop step is POLL or RENDER, as `phase` says, the latter at either level (R26, R173). -/
theorem stepRule_of_internal {s t : State} (hev : s.nextEvent = .internal) (hidle : s.xfer = .idle)
    (h : exec (mainLoopStep s.phase) s.takeEvent = .next t) : StepRule s t := by
  cases hphase : s.phase with
  | poll =>
    rw [hphase] at h
    cases h
    exact .poll hev hidle hphase
  | render =>
    rw [hphase] at h
    cases hlevel : s.build.level with
    | step =>
      cases (exec_render_step (s := s.takeEvent) hlevel).symm.trans h
      exact .renderWhole hev hidle hphase hlevel
    | pin =>
      cases (exec_render_pin (s := s.takeEvent) hlevel).symm.trans h
      exact .renderStart hev hidle hphase hlevel

/-- A frame taken is an ACTIVATE or is discarded (R73, R173). -/
theorem stepRule_of_write {s t : State} {bytes : List Byte} (hev : s.nextEvent = .write bytes) (hidle : s.xfer = .idle)
    (h : exec (classify s.build.n bytes) s.takeEvent = .next t) : StepRule s t := by
  cases hclass : classify s.build.n bytes with
  | activate c d =>
    rw [hclass, exec_activate] at h
    cases h
    exact .activate bytes c d hev hidle hclass
  | discardShort =>
    rw [hclass, exec_discardShort] at h
    cases h
    exact .discard bytes hev hidle
  | discardRange c =>
    rw [hclass, exec_discardRange] at h
    cases h
    exact .discard bytes hev hidle
  | _ =>
    obtain ⟨-, hcl⟩ | ⟨c, dlo, dhi, rest, -, ⟨-, hcl⟩ | ⟨-, hcl⟩⟩ := classify_cases s.build.n bytes <;>
      cases hclass.symm.trans hcl

/-- Every step is one of the steps of R173. -/
theorem stepRule_of_step {s t : State} (h : step s = .next t) : StepRule s t := by
  obtain ⟨hturn, rfl⟩ | ⟨hturn, rfl⟩ | ⟨δ, hev, rfl⟩ | ⟨i, hturn, hdecode, hexec⟩ := step_cases h
  · exact .pin _ _ (by simp [hturn])
  · exact .pin _ _ (by simp [hturn])
  · exact .clock δ hev
  · cases hev : s.nextEvent with
    | clock δ =>
      rw [hev] at hdecode
      cases hdecode
    | power =>
      rw [hev] at hdecode
      cases hdecode
      cases hexec
      exact .power hev
    | read =>
      rw [hev] at hdecode
      cases hdecode
      cases hexec
      exact .query hev hturn
    | write bytes =>
      rw [hev] at hdecode hturn
      cases hdecode
      exact stepRule_of_write hev (idle_of_turn_write hturn) hexec
    | internal =>
      rw [hev] at hdecode hturn
      cases hdecode
      exact stepRule_of_internal hev (idle_of_turn_internal hturn) hexec

/-- Settles O48, by what a step can do (`StepRule`): the clock and a reply touch neither the driver nor the table, a pin
event performs `e_k` (`pinStep_performs`), which acts on the wires as they are whatever event is held, and the other steps
need an idle driver. -/
theorem transfersNeverInterleave : Obligations.TransfersNeverInterleave := by
  intro s t o b k hx h
  have hbusy : s.xfer ≠ .idle := by simp [hx]
  cases stepRule_of_step h with
  | power hev => exact .inl hev
  | clock δ => exact .inr (.inl ⟨rfl, rfl, rfl, rfl, rfl, rfl, rfl, rfl⟩)
  | query => exact .inr (.inl ⟨rfl, rfl, rfl, rfl, rfl, rfl, rfl, rfl⟩)
  | pin es n =>
    have hx' : (s.around s.clock es n).xfer = .busy o b k := hx
    obtain ⟨hpin, hobs, hnext, hlast⟩ := pinStep_performs hx'
    have hdrive : (drive (s.around s.clock es n) (pinEvent b k.val)).SameWires (drive s (pinEvent b k.val)) :=
      (sameWires_around s.clock es n s).drive _
    exact .inr (.inr ⟨hnext, hlast, hpin.ser.trans hdrive.ser, hpin.srclk.trans hdrive.srclk,
      hpin.rclk.trans hdrive.rclk, hpin.shiftStage.trans hdrive.shiftStage, hpin.storage.trans hdrive.storage,
      pinStep_lastOut _, pinStep_chans _, hobs⟩)
  | discard _ _ hidle => exact absurd hidle hbusy
  | activate _ _ _ _ hidle => exact absurd hidle hbusy
  | poll _ hidle => exact absurd hidle hbusy
  | renderWhole _ hidle => exact absurd hidle hbusy
  | renderStart _ hidle => exact absurd hidle hbusy

/-- Settles O49: up to `e_24` the transfer that RENDER started has not latched (`driveTo_storage`), while `lastOut`, which
a QUERY replies, is the new byte from the start. -/
theorem replyRunsAheadOfOutputs : Obligations.ReplyRunsAheadOfOutputs := by
  intro s k hlevel _ _ hk
  refine ⟨renderStart .main s, exec_render_pin hlevel, ?storage, ?reply⟩
  case storage =>
    rw [pinSteps_start (renderStart_xfer .main s) (by omega)]
    exact driveTo_storage _ hk (renderStart .main s)
  case reply =>
    have hlastOut : (pinSteps k (renderStart .main s)).lastOut = encodeState s := pinSteps_lastOut k _
    rw [← hlastOut]
    exact queryRepliesLastOut _

end Sys2Proof.Machine

/-! Proofs: the invariant. -/

namespace Sys2Proof.Machine

theorem State.driverWf_of_idle {s : State} (hx : s.xfer = .idle) : s.DriverWf ↔ s.Quiet ∧ s.Shown := by
  simp only [State.DriverWf, hx]

theorem State.driverWf_of_busy {s : State} {o : Owner} {b : Byte} {k : Fin 26} (hx : s.xfer = .busy o b k) :
    s.DriverWf ↔ s.build.level = .pin ∧ b = s.lastOut ∧ s.lastOut = encodeState s ∧
      (o = .main → s.phase = .render) ∧ s.MidTransfer b k.val := by
  simp only [State.DriverWf, hx]

theorem State.DriverWf.idle {s : State} (hx : s.xfer = .idle) (hquiet : s.Quiet) (hshown : s.Shown) : s.DriverWf :=
  (State.driverWf_of_idle hx).mpr ⟨hquiet, hshown⟩

theorem State.DriverWf.busy {s : State} {o : Owner} {b : Byte} {k : Fin 26} (hx : s.xfer = .busy o b k)
    (hlevel : s.build.level = .pin) (hb : b = s.lastOut) (henc : s.lastOut = encodeState s)
    (howed : o = .main → s.phase = .render) (hmid : s.MidTransfer b k.val) : s.DriverWf :=
  (State.driverWf_of_busy hx).mpr ⟨hlevel, hb, henc, howed, hmid⟩

/-- The invariant speaks of the block and its wires only: other surroundings and another record keep it. -/
theorem State.Inv.around {s : State} (h : s.Inv) (c : Word) (es : List Event) (n : Nat) (os : List Obs) :
    ({ s.around c es n with obs := os } : State).Inv := by
  obtain ⟨⟨hbuild, hchans⟩, hcoherent, hdriver⟩ := h
  refine ⟨⟨hbuild, hchans⟩, hcoherent, ?_⟩
  cases hx : s.xfer with
  | idle =>
    obtain ⟨⟨hsrclk, hrclk⟩, ⟨hstorage, hser⟩⟩ := (State.driverWf_of_idle hx).mp hdriver
    exact .idle hx ⟨hsrclk, hrclk⟩ ⟨hstorage, hser⟩
  | busy o b k =>
    obtain ⟨hlevel, hb, henc, howed, ⟨hsrclk, hrclk, hser, hshifted, hlatched⟩⟩ :=
      (State.driverWf_of_busy hx).mp hdriver
    exact .busy hx hlevel hb henc howed ⟨hsrclk, hrclk, hser, hshifted, hlatched⟩

theorem State.Inv.takeEvent {s : State} (h : s.Inv) : s.takeEvent.Inv :=
  h.around s.clock s.takeEvent.inbox s.takeEvent.draws s.obs

/-- Between transfers the clocks are low and, once a render has completed, the outputs show `lastOut` (R183). -/
theorem State.Inv.rest {s : State} (h : s.Inv) (hx : s.xfer = .idle) : s.Quiet ∧ s.Shown :=
  (State.driverWf_of_idle hx).mp h.driver

/-- At the step level the driver is idle between steps (R28). -/
theorem State.Inv.idle_of_step {s : State} (h : s.Inv) (hlevel : s.build.level = .step) : s.xfer = .idle := by
  cases hx : s.xfer with
  | idle => rfl
  | busy o b k =>
    obtain ⟨hpin, -⟩ := (State.driverWf_of_busy hx).mp h.driver
    rw [hlevel] at hpin
    cases hpin

/-- A whole render leaves the encoded state alone, whatever the phase is then. -/
theorem encodeState_renderWhole_phase (s : State) (ph : Phase) :
    encodeState { renderWhole s with phase := ph } = encodeState s :=
  encodeState_congr (renderWhole_build s) (renderWhole_chans s)

/-- A whole render from low clocks meets the invariant, whatever the phase is then (R172, R183). -/
theorem inv_renderWhole {s : State} (htable : s.TableWf) (hidle : s.xfer = .idle) (hquiet : s.Quiet) (ph : Phase) :
    ({ renderWhole s with phase := ph } : State).Inv := by
  obtain ⟨⟨hsrclk, hrclk⟩, hstorage, -, hser⟩ := renderWhole_spec hquiet
  have hencode := encodeState_renderWhole_phase s ph
  have hlastOut := renderWhole_lastOut s
  refine ⟨⟨by simpa using htable.build, by simpa using htable.chans⟩, fun _ => hlastOut.trans hencode.symm, ?_⟩
  refine .idle ((renderWhole_xfer s).trans hidle) ⟨hsrclk, hrclk⟩ ⟨fun _ => ?_, fun _ => ?_⟩
  · exact hstorage.trans hlastOut.symm
  · exact hser.trans (congrArg (fun v : Byte => v.getLsbD 0) hlastOut.symm)

/-- A render started from low clocks at the pin level meets the invariant; RENDER's is owed until it ends (R185). -/
theorem inv_renderStart {s : State} {o : Owner} (htable : s.TableWf) (hlevel : s.build.level = .pin)
    (hquiet : s.Quiet) (howed : o = .main → s.phase = .render) : (renderStart o s).Inv := by
  have hquiet' : (renderStart o s).Quiet := ⟨hquiet.srclk, hquiet.rclk⟩
  exact ⟨⟨htable.build, htable.chans⟩, fun _ => rfl,
    .busy (renderStart_xfer o s) hlevel rfl rfl howed (quiet_midTransfer hquiet' _)⟩

/-- A render meets the invariant at either level. -/
theorem inv_render_bus {s : State} (htable : s.TableWf) (hidle : s.xfer = .idle) (hquiet : s.Quiet) :
    (render .bus s).Inv := by
  cases hlevel : s.build.level with
  | step =>
    rw [render_step .bus hlevel]
    exact inv_renderWhole htable hidle hquiet (renderWhole s).phase
  | pin =>
    rw [render_pin .bus hlevel]
    exact inv_renderStart htable hlevel hquiet (fun h => by cases h)

/-- `activate` keeps the table well formed (R100). -/
theorem tableWf_activate {s : State} (h : s.TableWf) (c : Byte) (d : Duration) : (activate c d s).TableWf where
  build := by simpa using h.build
  chans := by simpa using h.chans

theorem quiet_activate {s : State} (h : s.Quiet) (c : Byte) (d : Duration) : (activate c d s).Quiet where
  srclk := by simpa using h.srclk
  rclk := by simpa using h.rclk

/-- A POLL with an idle driver keeps the invariant: where it clears a channel it owes a render, so `lastOut` may be stale
(R178, R183). -/
theorem inv_polled {s : State} (h : s.Inv) (hidle : s.xfer = .idle) : (polled s).Inv := by
  cases hchanged : sweepChanged s.clock s with
  | false => rwa [polled_of_unchanged hchanged]
  | true =>
    obtain ⟨⟨hsrclk, hrclk⟩, ⟨hstorage, hser⟩⟩ := h.rest hidle
    have howed : (polled s).phase = .render := polled_phase_of_changed hchanged
    refine ⟨⟨h.table.build, (sweepTable_length _ _ _).trans h.table.chans⟩, fun hpoll => ?_, ?_⟩
    · rw [howed] at hpoll
      cases hpoll
    · exact .idle hidle ⟨hsrclk, hrclk⟩ ⟨hstorage, hser⟩

/-- After a power cycle nothing is active and `lastOut` is 0x00, which encodes that (R131, R230). -/
theorem encodeState_powerCycle (s : State) : encodeState (powerCycle s) = 0 :=
  nothingActiveEncodesToZero _ fun i _ => not_activeAt_powerCycle s i

/-- A power cycle ends in the invariant, from any state of a legal build (R230). -/
theorem inv_powerCycle {s : State} (h : s.build.wf = true) : (powerCycle s).Inv := by
  refine ⟨⟨by simpa using h, by simp [powerCycle]⟩, fun _ => ?_, ?_⟩
  · rw [encodeState_powerCycle]
    simp [powerCycle]
  · have hrendered : (powerCycle s).rendered = false := rfl
    refine .idle rfl ⟨rfl, rfl⟩ ⟨fun hr => ?_, fun hr => ?_⟩
    · cases hrendered.symm.trans hr
    · cases hrendered.symm.trans hr

/-- A pin event of a transfer keeps the invariant: before `e_25` the wires are ready for the next one
(`midTransfer_drive`), and `e_25` ends the transfer with the byte shown (`midTransfer_last`). -/
theorem inv_pinStep {s : State} (h : s.Inv) : (pinStep s).Inv := by
  cases hx : s.xfer with
  | idle => rwa [pinStep_idle hx]
  | busy o b k =>
    obtain ⟨hlevel, hb, henc, howed, hmid⟩ := (State.driverWf_of_busy hx).mp h.driver
    have htable : (pinStep s).TableWf := ⟨by simpa using h.table.build, by simpa using h.table.chans⟩
    have henc' : (pinStep s).lastOut = encodeState (pinStep s) := by
      rw [pinStep_lastOut, encodeState_congr (pinStep_build s) (pinStep_chans s), henc]
    refine ⟨htable, fun _ => henc', ?_⟩
    obtain ⟨hk, hpin⟩ | ⟨hk, hpin⟩ := pinStep_cases hx
    · obtain ⟨hsrclk, hrclk, hser, hshifted, hlatched⟩ := midTransfer_drive hmid hk
      rw [hpin] at henc' ⊢
      refine .busy rfl (by simpa using hlevel) (by simpa using hb) henc' ?_
        ⟨hsrclk, hrclk, hser, hshifted, hlatched⟩
      simpa using howed
    · rw [hk] at hmid hpin
      obtain ⟨⟨hsrclk, hrclk⟩, hstorage, -, hser⟩ := midTransfer_last hmid
      rw [hpin]
      refine .idle rfl ⟨hsrclk, hrclk⟩ ⟨fun _ => ?_, fun _ => ?_⟩
      · rw [endTransfer_storage, hstorage, hb, endTransfer_lastOut, drive_lastOut]
      · rw [endTransfer_ser, hser, hb, endTransfer_lastOut, drive_lastOut]

/-- Settles O41, by the step taken (`StepRule`): each of them has its lemma above. -/
theorem stepKeepsInvariant : Obligations.StepKeepsInvariant := by
  intro s t hinv h
  have htaken : s.takeEvent.Inv := hinv.takeEvent
  cases stepRule_of_step h with
  | pin es n => exact inv_pinStep (hinv.around s.clock es n s.obs)
  | clock δ => exact htaken.around (s.clock + δ) s.takeEvent.inbox s.takeEvent.draws s.obs
  | power => exact inv_powerCycle hinv.table.build
  | query => exact htaken.around s.clock s.takeEvent.inbox s.takeEvent.draws (s.obs ++ [.reply s.lastOut])
  | discard => exact htaken
  | activate _ c d _ hidle =>
    exact inv_render_bus (tableWf_activate htaken.table c d) ((activate_xfer c d _).trans hidle)
      (quiet_activate (htaken.rest hidle).1 c d)
  | poll _ hidle => exact inv_polled htaken hidle
  | renderWhole _ hidle => exact inv_renderWhole htaken.table hidle (htaken.rest hidle).1 .poll
  | renderStart _ hidle hphase hlevel =>
    exact inv_renderStart htaken.table hlevel (htaken.rest hidle).1 fun _ => hphase

/-- The reset state of a build has no channel active (R35). -/
theorem not_activeAt_resetOf (b : Build) (i : Nat) : ¬ (State.resetOf b).ActiveAt i := by
  rintro ⟨ch, hch, hactive⟩
  simp only [State.resetOf, List.getElem?_replicate, Option.ite_none_right_eq_some, Option.some.injEq] at hch
  obtain ⟨-, rfl⟩ := hch
  cases hactive

/-- The reset state of a legal build meets the invariant: nothing is active, as `lastOut` says, and no render has
completed yet (R35, R183). -/
theorem inv_resetOf {b : Build} (h : b.wf = true) : (State.resetOf b).Inv := by
  refine ⟨⟨h, List.length_replicate⟩, fun _ => ?_, ?_⟩
  · exact (nothingActiveEncodesToZero _ fun i _ => not_activeAt_resetOf b i).symm
  · exact .idle rfl ⟨rfl, rfl⟩ ⟨fun hr => (by cases hr), fun hr => (by cases hr)⟩

/-- Settles O42: the reset state of every legal build (`inv_resetOf`), the reference build's among them. -/
theorem resetMeetsInvariant : Obligations.ResetMeetsInvariant :=
  ⟨fun _ => inv_resetOf, inv_resetOf (by decide)⟩

/-- Settles O44: both halves are the coherence of `lastOut` with the table. -/
theorem queryIsStaleOnlyBeforeOwedRender : Obligations.QueryIsStaleOnlyBeforeOwedRender := by
  intro s hinv
  refine ⟨fun hphase => ?fresh, fun hstale => ?owed⟩
  case fresh => rw [queryRepliesLastOut, hinv.coherent hphase]
  case owed =>
    cases hphase : s.phase with
    | poll => exact absurd (hinv.coherent hphase) hstale
    | render => rfl

/-- Settles O52, by the step taken: only a render and a power cycle write `lastOut`. -/
theorem lastOutChangesOnlyToEncodedState : Obligations.LastOutChangesOnlyToEncodedState := by
  intro s t h
  cases stepRule_of_step h with
  | pin es n => exact .inl (pinStep_lastOut _)
  | clock δ => exact .inl rfl
  | power =>
    right
    rw [encodeState_powerCycle]
    simp [powerCycle]
  | query => exact .inl rfl
  | discard => exact .inl rfl
  | activate _ c d =>
    right
    rw [render_lastOut, encodeState_render]
  | poll => exact .inl rfl
  | renderWhole =>
    right
    rw [encodeState_renderWhole_phase]
    exact renderWhole_lastOut s.takeEvent
  | renderStart => exact .inr rfl

end Sys2Proof.Machine

/-! Proofs: what a step does to a channel. -/

namespace Sys2Proof.Machine

/-- An ACTIVATE in range leaves its own channel active, if the table has it at all (R100). -/
theorem active_of_activate_getElem? {c : Byte} {d : Duration} {s : State} {ch : Chan} (hlt : c.toNat < s.build.n)
    (h : (activate c d s).chans[c.toNat]? = some ch) : ch.active = true := by
  rw [activate_chans_of_lt hlt, channelOperand, List.getElem?_set] at h
  simp only [if_true] at h
  split at h
  · cases h
    rfl
  · cases h

/-- What a step does to channel `i`: nothing, unless it is an ACTIVATE of `i`, a power cycle, or a POLL, which sweeps the
channel (R108). -/
theorem chan_of_step {s t : State} (h : step s = .next t) (i : Nat) :
    t.chans[i]? = s.chans[i]? ∨
    (s.ActivatesNext i ∧ ∀ ch, t.chans[i]? = some ch → ch.active = true) ∨
    (s.nextEvent = .power ∧ ¬ t.ActiveAt i) ∨
    (s.PollNext ∧ i < s.build.n ∧ t.chans[i]? = s.chans[i]?.map (Chan.swept s.clock)) := by
  cases stepRule_of_step h with
  | pin es n =>
    rw [pinStep_chans]
    exact .inl rfl
  | clock δ => exact .inl rfl
  | power hev => exact .inr (.inr (.inl ⟨hev, not_activeAt_powerCycle _ i⟩))
  | query => exact .inl rfl
  | discard => exact .inl rfl
  | activate bytes c d hev hidle hclass =>
    rw [render_chans]
    by_cases hi : i = c.toNat
    · subst hi
      refine .inr (.inl ⟨⟨bytes, c, d, hev, by rw [hidle]; rfl, hclass, rfl⟩, fun ch hch => ?_⟩)
      exact active_of_activate_getElem? (s := s.takeEvent) (lt_of_classify_activate hclass) hch
    · exact .inl (activate_getElem?_of_ne d s.takeEvent hi)
  | poll hev hidle hphase =>
    have hswept : (polled s.takeEvent).chans[i]? = _ := sweepTable_getElem? s.clock s.build.n s.chans i
    by_cases hi : i < s.build.n
    · rw [if_pos hi] at hswept
      exact .inr (.inr (.inr ⟨⟨hidle, hphase, hev⟩, hi, hswept⟩))
    · rw [if_neg hi] at hswept
      exact .inl hswept
  | renderWhole =>
    left
    exact congrArg (·[i]?) (renderWhole_chans s.takeEvent)
  | renderStart => exact .inl rfl

/-- Settles O50, by what a step does to a channel (`chan_of_step`): a sweep activates nothing and deactivates only what has
expired. -/
theorem channelChangesOnlyAsLifecycleSays : Obligations.ChannelChangesOnlyAsLifecycleSays := by
  intro s t i a a' h ha ha'
  obtain hkept | ⟨⟨bytes, c, d, hev, -, hclass, hc⟩, hon⟩ | ⟨hev, hoff⟩ | ⟨⟨hidle, hphase, hev⟩, hi, hswept⟩ :=
    chan_of_step h i
  · rw [hkept, ha] at ha'
    cases ha'
    exact ⟨fun hoff hon => by simp [hoff] at hon, fun hon hoff => by simp [hoff] at hon⟩
  · exact ⟨fun _ _ => ⟨bytes, c, d, hev, hclass, hc⟩, fun _ hoff => by simp [hon a' ha'] at hoff⟩
  · exact ⟨fun _ hon => absurd ⟨a', ha', hon⟩ hoff, fun _ _ => .inl hev⟩
  · rw [ha, ha'] at hswept
    have ha'' : a' = a.swept s.clock := Option.some.inj hswept
    subst ha''
    refine ⟨fun hoff hon => ?_, fun hon hoff => .inr ⟨hev, hidle, hphase, hi, ?_⟩⟩
    · simp [Chan.swept, hoff] at hon
    · simpa [Chan.swept, hon] using hoff

/-- With an idle driver an internal event is the main loop's step (R173). -/
theorem step_internal_of_idle {s : State} {rest : List Event} (hidle : s.xfer = .idle)
    (hinbox : s.inbox = .internal :: rest) : step s = exec (mainLoopStep s.phase) { s with inbox := rest } := by
  rw [step_of_idle hidle, nextEvent_of_inbox hinbox, takeEvent_of_inbox hinbox]
  rfl

/-- After a POLL the active channels are those that were active and not expired (R104, R178). -/
theorem activeAt_polled_iff {s : State} {j : Nat} (hj : j < s.build.n) :
    (polled s).ActiveAt j ↔
      ∃ ch, s.chans[j]? = some ch ∧ ch.active = true ∧ expired s.clock ch.expiry = false := by
  have hswept : (polled s).chans[j]? = s.chans[j]?.map (Chan.swept s.clock) :=
    (sweepTable_getElem? s.clock s.build.n s.chans j).trans (if_pos hj)
  simp only [State.ActiveAt, hswept, Option.map_eq_some_iff, exists_exists_and_eq_and, Chan.swept,
    Bool.and_eq_true, Bool.not_eq_true']

/-- A RENDER taken at the step level shows the encoded state of the table, which it leaves as it is (R179). -/
theorem exists_step_render {s : State} {rest : List Event} (hlevel : s.build.level = .step) (hidle : s.xfer = .idle)
    (hphase : s.phase = .render) (hquiet : s.Quiet) (hinbox : s.inbox = .internal :: rest) :
    ∃ t, step s = .next t ∧ t.inbox = rest ∧ t.phase = .poll ∧ t.chans = s.chans ∧ t.storage = encodeState s := by
  have hstep : step s = exec .render { s with inbox := rest } := by
    rw [step_internal_of_idle hidle hinbox, hphase]
    rfl
  have hquiet' : ({ s with inbox := rest } : State).Quiet := ⟨hquiet.srclk, hquiet.rclk⟩
  obtain ⟨-, hstorage, -⟩ := renderWhole_spec hquiet'
  exact ⟨_, hstep.trans (exec_render_step hlevel), renderWhole_inbox { s with inbox := rest }, rfl,
    renderWhole_chans { s with inbox := rest }, hstorage⟩

/-- Settles O53: the POLL finds a channel expired and owes a render, and the RENDER shows the encoded state of the swept
table (`exists_step_render`), in which exactly the unexpired channels are active (`activeAt_polled_iff`). -/
theorem expiredChannelsGoDarkInOneIteration : Obligations.ExpiredChannelsGoDarkInOneIteration := by
  intro s rest i a hinv hlevel hphase hinbox hi ha hactive hexpired
  have hidle : s.xfer = .idle := hinv.idle_of_step hlevel
  obtain ⟨⟨hsrclk, hrclk⟩, -⟩ := hinv.rest hidle
  have hpoll : step s = .next (polled { s with inbox := .internal :: rest }) := by
    rw [step_internal_of_idle hidle hinbox, hphase]
    rfl
  have howed : (polled { s with inbox := .internal :: rest }).phase = .render :=
    polled_phase_of_changed ((sweepChanged_iff s.clock _).mpr ⟨i, a, hi, ha, hactive, hexpired⟩)
  obtain ⟨t, hrender, hrest, hphaseT, hchans, hstorage⟩ :=
    exists_step_render (s := polled { s with inbox := .internal :: rest }) (rest := rest) hlevel hidle howed
      ⟨hsrclk, hrclk⟩ rfl
  have hswept {j : Nat} (hj : j < s.build.n) :=
    activeAt_polled_iff (s := { s with inbox := .internal :: rest }) (j := j) hj
  refine ⟨t, (run_succ hpoll 1).trans ((run_succ hrender 0).trans rfl), hrest, hphaseT, ?off, fun k _ => ?bits⟩
  case off =>
    rintro ⟨ch, hch, hon⟩
    rw [hchans] at hch
    obtain ⟨ch', hch', -, hfresh⟩ := (hswept hi).mp ⟨ch, hch, hon⟩
    cases ha.symm.trans hch'
    simp [hexpired] at hfresh
  case bits =>
    rw [hstorage, encodeState_getLsbD]
    constructor
    · rintro ⟨j, hj, hon, hdrives⟩
      obtain ⟨ch, hch⟩ := (hswept hj).mp hon
      exact ⟨j, ch, hj, hdrives, hch⟩
    · rintro ⟨j, ch, hj, hdrives, hch⟩
      exact ⟨j, hj, (hswept hj).mpr ⟨ch, hch⟩, hdrives⟩

end Sys2Proof.Machine

/-! Proofs: the expiry of an inactive channel. -/

namespace Sys2Proof.Machine

/-- Two lists are related entry by entry iff they are at every index, the missing entries included. -/
theorem forall₂_iff_getElem? {α β : Type} {R : α → β → Prop} {l : List α} {l' : List β} :
    List.Forall₂ R l l' ↔ ∀ i : Nat, Option.Rel R l[i]? l'[i]? := by
  constructor
  · intro h
    induction h with
    | nil => exact fun _ => .none
    | cons hhead _ ih =>
      rintro (_ | i)
      · exact .some hhead
      · simpa using ih i
  · induction l generalizing l' with
    | nil =>
      intro h
      cases l' with
      | nil => exact .nil
      | cons b l' => cases h 0
    | cons a l ih =>
      intro h
      cases l' with
      | nil => cases h 0
      | cons b l' =>
        cases h 0 with
        | some hhead => exact .cons hhead (ih fun i => by simpa using h (i + 1))

/-- A sweep cannot tell alike channels apart: it reads the expiry of an active one only (R22, R104). -/
theorem Chan.Alike.due_eq {a b : Chan} (h : a.Alike b) (now : Word) : a.due now = b.due now := by
  obtain ⟨hactive, hexpiry⟩ := h
  unfold Chan.due
  rw [← hactive]
  cases ha : a.active with
  | false => rfl
  | true => rw [hexpiry ha]

/-- Alike channels stay alike through a sweep: it clears both or none, and keeps the expiries. -/
theorem Chan.Alike.swept {a b : Chan} (h : a.Alike b) (now : Word) : (a.swept now).Alike (b.swept now) := by
  have hdue := h.due_eq now
  cases hd : a.due now with
  | false => rwa [Chan.swept_of_not_due hd, Chan.swept_of_not_due (hdue ▸ hd)]
  | true =>
    rw [Chan.swept_of_due hd, Chan.swept_of_due (hdue ▸ hd)]
    exact ⟨rfl, fun hon => by cases hon⟩

theorem optionRel_map_swept {o o' : Option Chan} (h : Option.Rel Chan.Alike o o') (now : Word) :
    Option.Rel Chan.Alike (o.map (Chan.swept now)) (o'.map (Chan.swept now)) := by
  cases h with
  | none => exact .none
  | some hch => exact .some (hch.swept now)

theorem exists_due_iff_of_optionRel {o o' : Option Chan} (h : Option.Rel Chan.Alike o o') (now : Word) :
    (∃ ch, o = some ch ∧ ch.due now = true) ↔ ∃ ch, o' = some ch ∧ ch.due now = true := by
  cases h with
  | none => simp
  | some hch => simp [hch.due_eq now]

/-- Alike tables are alike after a sweep (R104). -/
theorem forall₂_alike_sweepTable {l l' : List Chan} (h : List.Forall₂ Chan.Alike l l') (now : Word) (n : Nat) :
    List.Forall₂ Chan.Alike (sweepTable now n l).1 (sweepTable now n l').1 := by
  rw [forall₂_iff_getElem?] at h ⊢
  intro i
  rw [sweepTable_getElem?, sweepTable_getElem?]
  split
  · exact optionRel_map_swept (h i) now
  · exact h i

/-- A sweep of alike tables changes both or none. -/
theorem sweepTable_changed_eq_of_alike {l l' : List Chan} (h : List.Forall₂ Chan.Alike l l') (now : Word) (n : Nat) :
    (sweepTable now n l).2 = (sweepTable now n l').2 := by
  rw [forall₂_iff_getElem?] at h
  rw [Bool.eq_iff_iff, sweepTable_changed, sweepTable_changed]
  simp only [fun i => exists_due_iff_of_optionRel (h i) now]

/-- Alike tables have the same `active` bits. -/
theorem map_active_eq_of_alike {l l' : List Chan} (h : List.Forall₂ Chan.Alike l l') :
    l.map Chan.active = l'.map Chan.active := by
  induction h with
  | nil => rfl
  | cons hhead _ ih => rw [List.map_cons, List.map_cons, hhead.1, ih]

/-- The same entry written into alike tables leaves them alike. -/
theorem forall₂_alike_set {l l' : List Chan} (h : List.Forall₂ Chan.Alike l l') (i : Nat) (ch : Chan) :
    List.Forall₂ Chan.Alike (l.set i ch) (l'.set i ch) := by
  induction h generalizing i with
  | nil => exact .nil
  | cons hhead htail ih =>
    cases i with
    | zero => exact .cons ⟨rfl, fun _ => rfl⟩ htail
    | succ i => exact .cons hhead (ih i)

/-- The same block with another channel table. -/
def State.withChans (cs : List Chan) (s : State) : State := { s with chans := cs }

/-- Two states are alike iff they differ in the table alone, and there in the expiries of inactive channels alone. -/
theorem State.alike_iff {s s' : State} :
    s.Alike s' ↔ List.Forall₂ Chan.Alike s.chans s'.chans ∧ s' = s.withChans s'.chans := by
  refine and_congr_right fun _ => ⟨fun h => ?_, fun h => ?_⟩
  · rw [h]
    rfl
  · rw [h]
    rfl

theorem State.alike_withChans {s : State} {cs : List Chan} (h : List.Forall₂ Chan.Alike s.chans cs) :
    s.Alike (s.withChans cs) :=
  State.alike_iff.mpr ⟨h, rfl⟩

/-- What neither reads nor writes the table keeps states alike. -/
theorem State.Alike.map {s s' : State} (h : s.Alike s') {f : State → State} (hkeeps : (f s).chans = s.chans)
    (hblind : ∀ cs, f (s.withChans cs) = (f s).withChans cs) : (f s).Alike (f s') := by
  obtain ⟨hchans, hs'⟩ := State.alike_iff.mp h
  rw [hs', hblind]
  exact State.alike_withChans (hkeeps ▸ hchans)

theorem drive_withChans (cs : List Chan) (p : PinWrite) (s : State) :
    drive (s.withChans cs) p = (drive s p).withChans cs := by
  obtain ⟨w, v⟩ := p
  cases w <;> rfl

theorem driveAll_withChans (cs : List Chan) (ps : List PinWrite) (s : State) :
    driveAll ps (s.withChans cs) = (driveAll ps s).withChans cs := by
  induction ps generalizing s with
  | nil => rfl
  | cons p ps ih =>
    show driveAll ps (drive (s.withChans cs) p) = _
    rw [drive_withChans, ih]
    rfl

/-- No pin event looks at the table. -/
theorem pinBlind_withChans (cs : List Chan) : PinBlind (State.withChans cs) where
  xfer _ := rfl
  drive s p := drive_withChans cs p s
  move _ _ := rfl
  endTransfer _ _ := rfl

/-- What does not read the table cannot tell alike states apart. -/
theorem State.Alike.congr {α : Type} {s s' : State} (h : s.Alike s') {f : State → α}
    (hblind : ∀ cs, f (s.withChans cs) = f s) : f s = f s' := by
  rw [(State.alike_iff.mp h).2, hblind]

theorem State.Alike.build_eq {s s' : State} (h : s.Alike s') : s.build = s'.build := h.congr fun _ => rfl

/-- Alike states encode to the same byte (R134). -/
theorem State.Alike.encodeState_eq {s s' : State} (h : s.Alike s') : encodeState s = encodeState s' :=
  encodeState_eq_of_map_active_eq h.build_eq (map_active_eq_of_alike h.1)

theorem State.Alike.renderWhole {s s' : State} (h : s.Alike s') :
    (Machine.renderWhole s).Alike (Machine.renderWhole s') := by
  have hlast : (setLastOut (encodeState s) s).Alike (setLastOut (encodeState s) s') := h.map rfl fun _ => rfl
  have hshift := hlast.map (shiftOut_chans (encodeState s) _) fun cs => driveAll_withChans cs _ _
  have hdone := hshift.map (f := fun u => { u with rendered := true }) rfl fun _ => rfl
  unfold Machine.renderWhole
  rw [← h.encodeState_eq]
  exact hdone

theorem State.Alike.renderStart {s s' : State} (h : s.Alike s') (o : Owner) :
    (Machine.renderStart o s).Alike (Machine.renderStart o s') := by
  unfold Machine.renderStart
  rw [← h.encodeState_eq]
  exact h.map (f := fun u => { setLastOut (encodeState s) u with xfer := .busy o (encodeState s) 0 }) rfl fun _ => rfl

theorem State.Alike.render {s s' : State} (h : s.Alike s') (o : Owner) :
    (Machine.render o s).Alike (Machine.render o s') := by
  have hbuild : s.build = s'.build := h.build_eq
  cases hlevel : s.build.level with
  | step =>
    rw [render_step o hlevel, render_step o (hbuild ▸ hlevel)]
    exact h.renderWhole
  | pin =>
    rw [render_pin o hlevel, render_pin o (hbuild ▸ hlevel)]
    exact h.renderStart o

/-- `activate` writes the same entry into both tables, or none (R100, R101). -/
theorem State.Alike.activate {s s' : State} (h : s.Alike s') (c : Byte) (d : Duration) :
    (Machine.activate c d s).Alike (Machine.activate c d s') := by
  obtain ⟨hchans, hs'⟩ := State.alike_iff.mp h
  rw [hs']
  by_cases hlt : channelOperand c < s.build.n
  · rw [activate_of_lt hlt, activate_of_lt (s := s.withChans s'.chans) hlt]
    exact ⟨forall₂_alike_set hchans _ _, rfl⟩
  · have hge := Nat.not_lt.mp hlt
    rw [activate_of_ge hge, activate_of_ge (s := s.withChans s'.chans) hge]
    exact State.alike_withChans hchans

theorem State.Alike.polled {s s' : State} (h : s.Alike s') : (Machine.polled s).Alike (Machine.polled s') := by
  obtain ⟨hchans, hs'⟩ := State.alike_iff.mp h
  have hchanged : sweepChanged s.clock s = sweepChanged s.clock (s.withChans s'.chans) :=
    sweepTable_changed_eq_of_alike hchans s.clock s.build.n
  rw [hs']
  refine ⟨forall₂_alike_sweepTable hchans s.clock s.build.n, ?_⟩
  unfold Machine.polled
  rw [hchanged]
  rfl

/-- Both outcomes are next states, and these are alike. -/
def NextAlike (o o' : Host.Outcome State Fault Refusal) : Prop := ∃ t t', o = .next t ∧ o' = .next t' ∧ t.Alike t'

theorem State.Alike.next {t t' : State} (h : t.Alike t') : NextAlike (.next t) (.next t') := ⟨t, t', rfl, rfl, h⟩

theorem State.Alike.execRender {s s' : State} (h : s.Alike s') :
    NextAlike (exec .render s) (exec .render s') := by
  have hbuild := h.build_eq
  cases hlevel : s.build.level with
  | step =>
    rw [exec_render_step hlevel, exec_render_step (hbuild ▸ hlevel)]
    exact (h.renderWhole.map (f := fun u => { u with phase := .poll }) rfl fun _ => rfl).next
  | pin =>
    rw [exec_render_pin hlevel, exec_render_pin (hbuild ▸ hlevel)]
    exact (h.renderStart .main).next

/-- A power cycle overwrites the table. -/
theorem powerCycle_withChans (cs : List Chan) (s : State) : powerCycle (s.withChans cs) = powerCycle s := rfl

theorem State.alike_refl (s : State) : s.Alike s :=
  ⟨List.forall₂_same.mpr fun _ _ => ⟨rfl, fun _ => rfl⟩, rfl⟩

/-- The operation that an event selects leads alike states to alike states. -/
theorem State.Alike.exec_of_decode {s s' : State} (h : s.Alike s') {n : Nat} {ph : Phase} {e : Event} {i : Instr}
    (hdecode : decode n ph e = .ok i) : NextAlike (exec i s) (exec i s') := by
  obtain ⟨-, -, hprim⟩ := decodedIsWellFormed n ph e i hdecode
  cases i with
  | activate c d => exact ((h.activate c d).render .bus).next
  | discardShort => exact h.next
  | discardRange c => exact h.next
  | query =>
    have hlast : s.lastOut = s'.lastOut := h.congr fun _ => rfl
    rw [exec_query, exec_query, ← hlast]
    exact (h.map (f := reply s.lastOut) rfl fun _ => rfl).next
  | poll => exact h.polled.next
  | render => exact h.execRender
  | reset =>
    rw [(State.alike_iff.mp h).2, exec_reset, exec_reset, powerCycle_withChans]
    exact (State.alike_refl _).next
  | primActivate c d => cases hprim
  | primExpired now e => cases hprim
  | primSweep now => cases hprim
  | primEncode => cases hprim
  | primShiftOut b => cases hprim

theorem State.Alike.deliver {s s' : State} (h : s.Alike s') (e : Event) :
    NextAlike (Machine.deliver e s) (Machine.deliver e s') := by
  have hsame : decode s.build.n s.phase e = decode s'.build.n s'.phase e :=
    h.congr (f := fun u => decode u.build.n u.phase e) fun _ => rfl
  cases hdecode : decode s.build.n s.phase e with
  | ok i =>
    rw [deliver_of_decode hdecode, deliver_of_decode (hsame.symm.trans hdecode)]
    exact h.exec_of_decode hdecode
  | error r =>
    obtain ⟨δ, rfl, rfl⟩ := decode_error hdecode
    exact (h.map (f := advanceClock δ) rfl fun _ => rfl).next

/-- Alike states make alike steps: they are offered the same event, and nothing that takes or holds it looks at the
table. -/
theorem State.Alike.step {s s' : State} (h : s.Alike s') : NextAlike (Machine.step s) (Machine.step s') := by
  have hevent : s.nextEvent = s'.nextEvent := h.congr fun _ => rfl
  have hxfer : s.xfer = s'.xfer := h.congr fun _ => rfl
  have htaken : s.takeEvent.Alike s'.takeEvent := h.map rfl fun _ => rfl
  have hpin {u u' : State} (hu : u.Alike u') : NextAlike (.next (pinStep u)) (.next (pinStep u')) :=
    (hu.map (pinStep_chans u) fun cs => (pinBlind_withChans cs).pinStep u).next
  unfold Machine.step
  rw [← hevent, ← hxfer]
  cases turn s.xfer s.nextEvent with
  | deliver => exact htaken.deliver s.nextEvent
  | pin => exact hpin htaken
  | hold => exact hpin (htaken.map (f := State.putBack s.nextEvent) rfl fun _ => rfl)

/-- Settles O45: alike states make alike steps (`State.Alike.step`), and what is recorded is no part of the table. -/
theorem inactiveExpiriesAreUnobservable : Obligations.InactiveExpiriesAreUnobservable := by
  intro s s' t hs h
  obtain ⟨u, t', hu, ht', halike⟩ := hs.step
  cases h.symm.trans hu
  exact ⟨t', ht', halike, halike.congr fun _ => rfl⟩

end Sys2Proof.Machine

/-! Proofs: the two levels. -/

namespace Sys2Proof.Machine

/-- 26 pin events end any transfer (R141, R185). -/
@[simp] theorem finished_xfer (s : State) : s.finished.xfer = .idle := by
  rw [State.finished, ← Xfer.left_eq_zero_iff, pinSteps_left, Nat.sub_eq_zero_of_le s.xfer.left_le]

/-- A transfer ends in the same state, seen from before or after its next pin event. -/
theorem finished_pinStep (s : State) : (pinStep s).finished = s.finished :=
  calc (pinStep s).finished
      = pinSteps (26 + 1) s := rfl
    _ = pinStep s.finished := pinSteps_add 26 1 s
    _ = s.finished := pinStep_idle (finished_xfer s)

/-- Settles O47: `finished_pinStep` and `finished_xfer`. -/
theorem pinStepsAreInvisibleWhenGrouped : Obligations.PinStepsAreInvisibleWhenGrouped :=
  fun s => ⟨congrArg State.atStepLevel (finished_pinStep s), finished_xfer s⟩

/-- No pin event looks at the clock, the events to come or the draws. -/
theorem pinBlind_around (c : Word) (es : List Event) (n : Nat) : PinBlind (State.around c es n) where
  xfer _ := rfl
  drive := by
    rintro s ⟨w, v⟩
    cases w <;> rfl
  move _ _ := rfl
  endTransfer _ _ := rfl

theorem grouped_around (c : Word) (es : List Event) (n : Nat) (s : State) :
    (s.around c es n).grouped = s.grouped.around c es n :=
  congrArg State.atStepLevel ((pinBlind_around c es n).pinSteps 26 s)

/-- The clock advances alike before and after the transfer's PIN steps are grouped (R109). -/
theorem grouped_advanceClock (δ : Word) (s : State) : (advanceClock δ s).grouped = advanceClock δ s.grouped := by
  have hblind : PinBlind (advanceClock δ) :=
    ⟨fun _ => rfl, fun s p => by obtain ⟨w, v⟩ := p; cases w <;> rfl, fun _ _ => rfl, fun _ _ => rfl⟩
  exact congrArg State.atStepLevel (hblind.pinSteps 26 s)

/-- The state with more of a record before its own. -/
def State.recorded (os : List Obs) (s : State) : State := { s with obs := os ++ s.obs }

/-- No pin event looks at what was observed before. -/
theorem pinBlind_recorded (os : List Obs) : PinBlind (State.recorded os) where
  xfer _ := rfl
  drive := by
    rintro s ⟨w, v⟩
    cases w <;> simp [State.recorded, drive]
  move _ _ := rfl
  endTransfer _ _ := rfl

/-- How a transfer ends does not depend on what was observed before it. -/
theorem grouped_unobserved_congr {s s' : State} (h : s.unobserved = s'.unobserved) :
    s.grouped.unobserved = s'.grouped.unobserved := by
  have hforget (u : State) : u.grouped.unobserved = u.unobserved.grouped.unobserved := by
    have hu : u = u.unobserved.recorded u.obs := by simp [State.recorded, State.unobserved]
    conv_lhs => rw [hu, State.grouped, State.finished, (pinBlind_recorded u.obs).pinSteps]
    rfl
  rw [hforget s, hforget s', h]

/-- With an idle driver there is nothing to group. -/
theorem grouped_of_idle {s : State} (h : s.xfer = .idle) : s.grouped = s.atStepLevel :=
  congrArg State.atStepLevel (pinSteps_idle h 26)

theorem activate_atStepLevel (c : Byte) (d : Duration) (s : State) :
    activate c d s.atStepLevel = (activate c d s).atStepLevel := by
  by_cases hlt : channelOperand c < s.build.n
  · rw [activate_of_lt hlt, activate_of_lt (s := s.atStepLevel) hlt]
    rfl
  · have hge := Nat.not_lt.mp hlt
    rw [activate_of_ge hge, activate_of_ge (s := s.atStepLevel) hge]

/-- The same wires and table under another build, `lastOut` and `xfer`. -/
def State.headed (bd : Build) (v : Byte) (x : Xfer) (s : State) : State := { s with build := bd, lastOut := v, xfer := x }

/-- No pin write looks at the build, `lastOut` or `xfer`. -/
theorem driveAll_headed (bd : Build) (v : Byte) (x : Xfer) (ps : List PinWrite) (s : State) :
    driveAll ps (s.headed bd v x) = (driveAll ps s).headed bd v x := by
  induction ps generalizing s with
  | nil => rfl
  | cons p ps ih =>
    have hdrive : drive (s.headed bd v x) p = (drive s p).headed bd v x := by
      obtain ⟨w, l⟩ := p
      cases w <;> rfl
    show driveAll ps (drive (s.headed bd v x) p) = _
    rw [hdrive, ih]
    rfl

/-- A render started by `o`, its PIN steps grouped, is the whole render of the step level, the main loop's with the phase
back at POLL (R172, R185). -/
theorem grouped_renderStart (o : Owner) (s : State) :
    (renderStart o s).grouped = endTransfer o (renderWhole s.atStepLevel) := by
  have hwhole : shiftOut (encodeState s) (setLastOut (encodeState s) s.atStepLevel) =
      (shiftOut (encodeState s) s).headed s.atStepLevel.build (encodeState s) s.xfer :=
    driveAll_headed s.atStepLevel.build (encodeState s) s.xfer _ s
  have hstart : shiftOut (encodeState s) (renderStart o s) =
      (shiftOut (encodeState s) s).headed s.build (encodeState s) (.busy o (encodeState s) 0) :=
    driveAll_headed s.build (encodeState s) _ _ s
  have hencode : encodeState s.atStepLevel = encodeState s := rfl
  rw [State.grouped, finished_start (renderStart_xfer o s), hstart, renderWhole, hencode, hwhole]
  rfl

/-- With an idle driver the end of a bus transfer has nothing left to do after a whole render. -/
theorem endTransfer_bus_renderWhole {s : State} (hidle : s.xfer = .idle) :
    endTransfer .bus (renderWhole s) = renderWhole s := by
  apply State.ext <;> simp [hidle]

/-- With an idle driver the end of a main-loop transfer leaves only the phase to write after a whole render. -/
theorem endTransfer_main_renderWhole {s : State} (hidle : s.xfer = .idle) :
    endTransfer .main (renderWhole s) = { renderWhole s with phase := .poll } := by
  apply State.ext <;> simp [hidle]

/-- From an idle driver an operation of the pin level, its PIN steps grouped, is that of the step level (R185). -/
theorem exec_atStepLevel_of_idle {i : Instr} {s t : State} (hlevel : s.build.level = .pin)
    (hprim : i.isPrimitive = false) (hidle : s.xfer = .idle) (h : exec i s = .next t) :
    exec i s.atStepLevel = .next t.grouped := by
  cases i with
  | activate c d =>
    have hidle' : (activate c d s).atStepLevel.xfer = .idle := (activate_xfer c d s).trans hidle
    rw [exec_activate, render_pin .bus (by simpa using hlevel)] at h
    cases h
    rw [exec_activate, activate_atStepLevel, render_step .bus rfl, grouped_renderStart,
      endTransfer_bus_renderWhole hidle']
  | discardShort =>
    cases h
    rw [grouped_of_idle hidle, exec_discardShort]
  | discardRange c =>
    cases h
    rw [grouped_of_idle hidle, exec_discardRange]
  | query =>
    cases h
    rw [grouped_of_idle (s := reply s.lastOut s) hidle, exec_query]
    rfl
  | poll =>
    rw [exec_poll] at h
    cases h
    rw [grouped_of_idle (s := polled s) hidle, exec_poll]
    rfl
  | render =>
    rw [exec_render_pin hlevel] at h
    cases h
    rw [exec_render_step rfl, grouped_renderStart, endTransfer_main_renderWhole (s := s.atStepLevel) hidle]
  | reset =>
    cases h
    rw [grouped_of_idle (s := powerCycle s) rfl, exec_reset]
    rfl
  | primActivate c d => cases hprim
  | primExpired now e => cases hprim
  | primSweep now => cases hprim
  | primEncode => cases hprim
  | primShiftOut b => cases hprim

/-- A power cycle ends a transfer early, and leaves nothing of it but the record (R230). -/
theorem powerCycle_grouped_unobserved (s : State) :
    (powerCycle s.grouped).unobserved = (powerCycle s).grouped.unobserved := by
  rw [grouped_of_idle (s := powerCycle s) rfl]
  apply State.ext <;> simp [powerCycle, State.unobserved, State.grouped, State.atStepLevel, State.finished]

/-- A reply during a transfer changes nothing but the record (R177). -/
theorem reply_grouped_unobserved (v : Byte) (s : State) :
    (reply v s.grouped).unobserved = (reply v s).grouped.unobserved :=
  (grouped_unobserved_congr (s := s) (s' := reply v s) rfl)

/-- Settles O46: from an idle driver by `exec_atStepLevel_of_idle`; during a transfer a QUERY and a power cycle see what
the transfer leaves alone. -/
theorem pinLevelRefinesStepLevel : Obligations.PinLevelRefinesStepLevel := by
  intro i s t hlevel hprim henabled h
  by_cases hidle : s.xfer = .idle
  · refine ⟨t.grouped, ?_, rfl, fun _ => rfl⟩
    rw [grouped_of_idle hidle]
    exact exec_atStepLevel_of_idle hlevel hprim hidle h
  · obtain hidle' | rfl | rfl := henabled
    · exact absurd hidle' hidle
    · cases h
      have hlast : s.grouped.lastOut = s.lastOut := pinSteps_lastOut 26 s
      refine ⟨reply s.grouped.lastOut s.grouped, exec_query _, ?_, fun hidle' => absurd hidle' hidle⟩
      rw [hlast]
      exact reply_grouped_unobserved s.lastOut s
    · cases h
      exact ⟨powerCycle s.grouped, exec_reset _, powerCycle_grouped_unobserved s, fun hidle' => absurd hidle' hidle⟩

/-- An event is taken alike before and after the transfer's PIN steps are grouped. -/
theorem takeEvent_grouped (s : State) : s.grouped.takeEvent = s.takeEvent.grouped := by
  have hinbox : s.grouped.inbox = s.inbox := pinSteps_inbox 26 s
  have hdraws : s.grouped.draws = s.draws := pinSteps_draws 26 s
  have hclock : s.grouped.clock = s.clock := pinSteps_clock 26 s
  rw [takeEvent_eq_around s, grouped_around, ← hclock]
  unfold State.takeEvent State.coming
  rw [hinbox, hdraws]
  rfl

theorem nextEvent_grouped (s : State) : s.grouped.nextEvent = s.nextEvent := by
  have hinbox : s.grouped.inbox = s.inbox := pinSteps_inbox 26 s
  have hdraws : s.grouped.draws = s.draws := pinSteps_draws 26 s
  unfold State.nextEvent State.coming
  rw [hinbox, hdraws]

/-- The grouped state is at rest, so it takes the event offered (R173). -/
theorem step_grouped (s : State) : step s.grouped = deliver s.nextEvent s.takeEvent.grouped := by
  have hidle : s.grouped.xfer = .idle := finished_xfer s
  rw [step_of_idle hidle, nextEvent_grouped, takeEvent_grouped]

/-- An event taken during a transfer is the clock's, a power cycle, or a read request, whose operations do not depend on
`phase` (R79, R173). -/
theorem decode_of_deliver_busy {s : State} {i : Instr} (hbusy : s.xfer ≠ .idle)
    (hturn : turn s.xfer s.nextEvent = .deliver) (hdecode : decode s.build.n s.phase s.nextEvent = .ok i) (n : Nat)
    (ph : Phase) : (i = .query ∨ i = .reset) ∧ decode n ph s.nextEvent = .ok i := by
  cases hev : s.nextEvent with
  | clock δ =>
    rw [hev] at hdecode
    cases hdecode
  | write bytes =>
    rw [hev] at hturn
    exact absurd (idle_of_turn_write hturn) hbusy
  | read =>
    rw [hev] at hdecode
    cases hdecode
    exact ⟨.inl rfl, rfl⟩
  | internal =>
    rw [hev] at hturn
    exact absurd (idle_of_turn_internal hturn) hbusy
  | power =>
    rw [hev] at hdecode
    cases hdecode
    exact ⟨.inr rfl, rfl⟩

/-- The grouped state decodes an event that is taken as the state itself does. -/
theorem decode_grouped {s : State} {i : Instr} (hturn : turn s.xfer s.nextEvent = .deliver)
    (hdecode : decode s.build.n s.phase s.nextEvent = .ok i) :
    decode s.grouped.build.n s.grouped.phase s.nextEvent = .ok i ∧ (s.xfer = .idle ∨ i = .query ∨ i = .reset) := by
  by_cases hidle : s.xfer = .idle
  · rw [grouped_of_idle hidle]
    exact ⟨hdecode, .inl hidle⟩
  · obtain ⟨hi, hd⟩ := decode_of_deliver_busy hidle hturn hdecode s.grouped.build.n s.grouped.phase
    exact ⟨hd, .inr hi⟩

/-- A step that does not take its event is a pin event, in other surroundings at most (R59, R173). -/
theorem eq_pinStep_of_not_deliver {s t : State} (hturn : turn s.xfer s.nextEvent ≠ .deliver) (h : step s = .next t) :
    ∃ es n, t = pinStep (s.around s.clock es n) := by
  cases hrule : turn s.xfer s.nextEvent with
  | deliver => exact absurd hrule hturn
  | pin =>
    simp only [step, hrule] at h
    cases h
    exact ⟨_, _, rfl⟩
  | hold =>
    simp only [step, hrule] at h
    cases h
    exact ⟨_, _, rfl⟩

/-- Settles O54. A PIN step is invisible when grouped (`finished_pinStep`), an event held or not; any other step takes its
event, which the grouped state takes too (`step_grouped`), and runs the clock's advance or an operation that refines the
step level's (`pinLevelRefinesStepLevel`). -/
theorem pinLevelStepsAreStepLevelSteps : Obligations.PinLevelStepsAreStepLevelSteps := by
  intro s t hlevel h
  refine ⟨fun hturn => ?pin, fun hturn => ?deliver⟩
  case pin =>
    obtain ⟨es, n, rfl⟩ := eq_pinStep_of_not_deliver hturn h
    have hclock : s.grouped.clock = s.clock := pinSteps_clock 26 s
    have hgrouped : (pinStep (s.around s.clock es n)).grouped = s.grouped.around s.clock es n :=
      (congrArg State.atStepLevel (finished_pinStep _)).trans (grouped_around s.clock es n s)
    rw [hgrouped, pinStep_inbox, pinStep_draws, ← hclock]
    rfl
  case deliver =>
    rw [step_of_deliver hturn] at h
    rw [step_grouped]
    cases hdecode : decode s.build.n s.phase s.nextEvent with
    | error r =>
      obtain ⟨δ, hev, rfl⟩ := decode_error hdecode
      rw [hev] at h ⊢
      cases h
      rw [grouped_advanceClock]
      exact ⟨advanceClock δ s.takeEvent.grouped, rfl, rfl, fun _ => rfl⟩
    | ok i =>
      obtain ⟨hgrouped, henabled⟩ := decode_grouped hturn hdecode
      obtain ⟨-, -, hprim⟩ := decodedIsWellFormed _ _ _ _ hdecode
      rw [deliver_of_decode (s := s.takeEvent) hdecode] at h
      rw [← takeEvent_grouped, deliver_of_decode (s := s.grouped.takeEvent) hgrouped, takeEvent_grouped]
      exact pinLevelRefinesStepLevel i s.takeEvent t hlevel hprim henabled h

end Sys2Proof.Machine

/-! Proofs: runs. -/

namespace Sys2Proof.Machine

/-- From every state there is a run, because every step completes (`exists_step_eq_next`). -/
theorem exists_isRun (s : State) : ∃ r, IsRun r ∧ r 0 = s := by
  choose next hnext using exists_step_eq_next
  refine ⟨fun k => next^[k] s, fun k => ?_, rfl⟩
  show step (next^[k] s) = .next (next^[k + 1] s)
  rw [Function.iterate_succ_apply']
  exact hnext _

/-- What every step keeps holds from its first index on. -/
theorem IsRun.keeps {r : Nat → State} (hr : IsRun r) {P : State → Prop} (hstep : ∀ s t, step s = .next t → P s → P t)
    {k : Nat} (hk : P (r k)) {j : Nat} (hj : k ≤ j) : P (r j) := by
  induction j, hj using Nat.le_induction with
  | base => exact hk
  | succ j _ ih => exact hstep _ _ (hr j) ih

theorem coming_of_inbox {s : State} {e : Event} {es : List Event} (h : s.inbox = e :: es) : s.coming = e :: es := by
  simp only [State.coming, h]

/-- A step that is not the block's own takes one of the events to come. -/
theorem inbox_of_not_ownStep {s t : State} (h : step s = .next t) (hown : ¬ s.OwnStep) : t.inbox = s.coming.tail :=
  step_inbox h fun hhold => hown (.inr hhold)

/-- With an internal event to come the block takes a step of its own, at that event at the latest. -/
theorem IsRun.exists_ownStep_of_coming {r : Nat → State} (hr : IsRun r) {es : List Event} (hmem : .internal ∈ es) (k : Nat)
    (hk : (r k).coming = es) : ∃ j, k ≤ j ∧ (r j).OwnStep := by
  induction es generalizing k with
  | nil => cases hmem
  | cons e es ih =>
    by_cases hown : (r k).OwnStep
    · exact ⟨k, Nat.le_refl k, hown⟩
    · have hevent : (r k).nextEvent = e := by rw [State.nextEvent, hk, List.headD_cons]
      have hmem' : .internal ∈ es := by
        obtain rfl | hmem' := List.mem_cons.mp hmem
        · exact absurd (.inl hevent) hown
        · exact hmem'
      have hinbox : (r (k + 1)).inbox = es := by rw [inbox_of_not_ownStep (hr k) hown, hk, List.tail_cons]
      obtain ⟨e', es', rfl⟩ := List.exists_cons_of_ne_nil (List.ne_nil_of_mem hmem')
      obtain ⟨j, hj, hownj⟩ := ih hmem' (k + 1) (coming_of_inbox hinbox)
      exact ⟨j, by omega, hownj⟩

/-- The block takes a step of its own again and again: each event of the inbox is taken, unless one is held, which is a
step of the block's own; then come finitely many drawn events with its own step after them (R180; log 26). -/
theorem IsRun.exists_ownStep {r : Nat → State} (hr : IsRun r) (k : Nat) : ∃ j, k ≤ j ∧ (r j).OwnStep := by
  generalize hes : (r k).inbox = es
  induction es generalizing k with
  | nil =>
    have hcoming : (r k).coming = Config.environment (r k).draws ++ [.internal] := by simp only [State.coming, hes]
    exact hr.exists_ownStep_of_coming (by simp) k hcoming
  | cons e es ih =>
    by_cases hown : (r k).OwnStep
    · exact ⟨k, Nat.le_refl k, hown⟩
    · have hinbox : (r (k + 1)).inbox = es := by
        rw [inbox_of_not_ownStep (hr k) hown, coming_of_inbox hes, List.tail_cons]
      obtain ⟨j, hj, hownj⟩ := ih (k + 1) hinbox
      exact ⟨j, by omega, hownj⟩

/-- A run is weakly fair: a main-loop agent that stays enabled takes the block's own steps (R180). -/
theorem IsRun.weaklyFair {r : Nat → State} (hr : IsRun r) : WeaklyFair r := by
  intro k henabled
  obtain ⟨j, hj, hown⟩ := hr.exists_ownStep k
  exact ⟨j, hj, henabled j hj, hown⟩

/-- At the step level a driver that is idle stays idle between steps (R28). -/
theorem idle_of_step_level {s t : State} (h : step s = .next t) (hlevel : s.build.level = .step)
    (hidle : s.xfer = .idle) : t.xfer = .idle := by
  cases stepRule_of_step h with
  | pin es n =>
    rw [pinStep_idle (s := s.around s.clock es n) hidle]
    exact hidle
  | clock δ => exact hidle
  | power => rfl
  | query => exact hidle
  | discard => exact hidle
  | activate _ c d =>
    rw [render_step .bus (by simpa using hlevel), renderWhole_xfer, activate_xfer]
    exact hidle
  | poll => exact hidle
  | renderWhole => exact (renderWhole_xfer s.takeEvent).trans hidle
  | renderStart _ _ _ hpin =>
    rw [hlevel] at hpin
    cases hpin

/-- An idle driver keeps no one waiting (R173). -/
theorem mainLoopEnabled_of_idle {s : State} (h : s.xfer = .idle) : s.MainLoopEnabled := by
  intro b k hbusy
  rw [h] at hbusy
  cases hbusy

/-- At the step level the main loop always has an enabled step (R173). -/
theorem IsRun.mainLoopEnabled_of_step_level {r : Nat → State} (hr : IsRun r) {k : Nat}
    (hlevel : (r k).build.level = .step) (hidle : (r k).xfer = .idle) {j : Nat} (hj : k ≤ j) : (r j).MainLoopEnabled := by
  have hkeeps := hr.keeps (P := fun s => s.build.level = .step ∧ s.xfer = .idle)
    (fun s t h hs => ⟨by rw [step_build h, hs.1], idle_of_step_level h hs.1 hs.2⟩) ⟨hlevel, hidle⟩ hj
  exact mainLoopEnabled_of_idle hkeeps.2

/-- Settles O55: runs exist because steps complete, are weakly fair because the block's own step always comes, and at the
step level the driver is idle between steps. -/
theorem everyRunIsWeaklyFair : Obligations.EveryRunIsWeaklyFair :=
  ⟨exists_isRun, fun _ hr => ⟨hr.exists_ownStep, hr.weaklyFair⟩,
    fun _ hr hlevel hidle j => hr.mainLoopEnabled_of_step_level hlevel hidle (Nat.zero_le j)⟩

/-- How many steps of its own the block needs at most before its next one is POLL: none with POLL next, the pin events
left during a transfer of the main loop's, and one more where its RENDER has not started yet (R178, R179, R185). -/
def State.stepsToPoll (s : State) : Nat := if s.xfer = .idle ∧ s.phase = .render then 27 else s.xfer.left

theorem stepsToPoll_of_render {s : State} (hidle : s.xfer = .idle) (hphase : s.phase = .render) : s.stepsToPoll = 27 :=
  if_pos ⟨hidle, hphase⟩

theorem stepsToPoll_of_poll {s : State} (hidle : s.xfer = .idle) (hphase : s.phase = .poll) : s.stepsToPoll = 0 := by
  simp [State.stepsToPoll, hphase, hidle, Xfer.left]

theorem stepsToPoll_of_busy {s : State} (hbusy : s.xfer ≠ .idle) : s.stepsToPoll = s.xfer.left :=
  if_neg fun h => hbusy h.1

theorem stepsToPoll_congr {s t : State} (hxfer : t.xfer = s.xfer) (hphase : t.phase = s.phase) :
    t.stepsToPoll = s.stepsToPoll := by
  rw [State.stepsToPoll, State.stepsToPoll, hxfer, hphase]

/-- An event taken that is not internal is no step of the block's own. -/
theorem not_ownStep {s : State} (hev : s.nextEvent ≠ .internal) (hturn : turn s.xfer s.nextEvent = .deliver) :
    ¬ s.OwnStep := by
  rintro (h | h)
  · exact hev h
  · rw [hturn] at h
    cases h

/-- A pin event of a main-loop transfer brings POLL one step closer: the last one ends RENDER (R185). -/
theorem stepsToPoll_pinStep {s : State} {b : Byte} {k : Fin 26} (hx : s.xfer = .busy .main b k) :
    (pinStep s).stepsToPoll < s.stepsToPoll := by
  rw [stepsToPoll_of_busy (s := s) (by simp [hx])]
  obtain ⟨hk, hpin⟩ | ⟨hk, hpin⟩ := pinStep_cases hx
  · rw [stepsToPoll_of_busy (by simp [hpin]), pinStep_left]
    simp only [hx, Xfer.left]
    omega
  · rw [hpin, stepsToPoll_of_poll rfl rfl, hx]
    simp only [Xfer.left]
    omega

/-- While the main loop is not kept waiting, no step takes POLL farther away, and each of the block's own brings it
closer. -/
theorem stepsToPoll_of_step {s t : State} (h : step s = .next t) (hs : s.MainLoopEnabled) (ht : t.MainLoopEnabled)
    (hpoll : ¬ s.PollNext) : t.stepsToPoll ≤ s.stepsToPoll ∧ (s.OwnStep → t.stepsToPoll < s.stepsToPoll) := by
  have hforeign {u : State} (hle : u.stepsToPoll ≤ s.stepsToPoll) (hown : ¬ s.OwnStep) :
      u.stepsToPoll ≤ s.stepsToPoll ∧ (s.OwnStep → u.stepsToPoll < s.stepsToPoll) :=
    ⟨hle, fun h => absurd h hown⟩
  have hown {u : State} (hlt : u.stepsToPoll < s.stepsToPoll) :
      u.stepsToPoll ≤ s.stepsToPoll ∧ (s.OwnStep → u.stepsToPoll < s.stepsToPoll) := ⟨hlt.le, fun _ => hlt⟩
  cases stepRule_of_step h with
  | pin es n hturn =>
    cases hx : s.xfer with
    | idle => exact absurd (by rw [hx]; rfl) hturn
    | busy o b k =>
      cases o with
      | main => exact hown (stepsToPoll_pinStep (s := s.around s.clock es n) hx)
      | bus => exact absurd hx (hs b k)
  | clock δ hev => exact hforeign (Nat.le_refl _) (not_ownStep (by simp [hev]) (by simp [hev]))
  | power hev =>
    refine hforeign ?_ (not_ownStep (by simp [hev]) (by simp [hev]))
    rw [stepsToPoll_of_poll (s := powerCycle s.takeEvent) rfl rfl]
    exact Nat.zero_le _
  | query hev hturn => exact hforeign (Nat.le_refl _) (not_ownStep (by simp [hev]) hturn)
  | discard _ hev hidle => exact hforeign (Nat.le_refl _) (not_ownStep (by simp [hev]) (by rw [hidle]; rfl))
  | activate _ c d hev hidle =>
    refine hforeign ?_ (not_ownStep (by simp [hev]) (by rw [hidle]; rfl))
    cases hlevel : s.build.level with
    | step =>
      rw [render_step .bus (by simpa using hlevel)]
      exact (stepsToPoll_congr (by simp) (by simp)).le
    | pin =>
      rw [render_pin .bus (by simpa using hlevel)] at ht
      exact absurd (renderStart_xfer .bus _) (ht _ _)
  | poll hev hidle hphase => exact absurd ⟨hidle, hphase, hev⟩ hpoll
  | renderWhole _ hidle hphase =>
    apply hown
    have hdone : ({ renderWhole s.takeEvent with phase := .poll } : State).stepsToPoll = 0 :=
      stepsToPoll_of_poll ((renderWhole_xfer s.takeEvent).trans hidle) rfl
    rw [stepsToPoll_of_render hidle hphase, hdone]
    decide
  | renderStart _ hidle hphase =>
    apply hown
    rw [stepsToPoll_of_render hidle hphase, stepsToPoll_of_busy (by simp)]
    simp [Xfer.left]

/-- A main loop that is never kept waiting takes a POLL (R180): else its own steps, which do not end, would bring POLL
closer without end. -/
theorem IsRun.exists_pollNext {r : Nat → State} (hr : IsRun r) {k : Nat}
    (henabled : ∀ j, k ≤ j → (r j).MainLoopEnabled) : ∃ j, k ≤ j ∧ (r j).PollNext := by
  by_contra hnever
  push Not at hnever
  have hstep (j : Nat) (hj : k ≤ j) :=
    stepsToPoll_of_step (hr j) (henabled j hj) (henabled (j + 1) (by omega)) (hnever j hj)
  have hmono {i j : Nat} (hi : k ≤ i) (hij : i ≤ j) : (r j).stepsToPoll ≤ (r i).stepsToPoll := by
    induction j, hij using Nat.le_induction with
    | base => exact Nat.le_refl _
    | succ j hij ih => exact (hstep j (hi.trans hij)).1.trans ih
  have hnone (n : Nat) : ∀ i, k ≤ i → (r i).stepsToPoll = n → False := by
    induction n using Nat.strong_induction_on with
    | _ n ih =>
      intro i hi hn
      obtain ⟨j, hij, hown⟩ := hr.exists_ownStep i
      have hlt := (hstep j (hi.trans hij)).2 hown
      have hle := hmono hi hij
      exact ih _ (by omega) (j + 1) (by omega) rfl
  exact hnone _ k (Nat.le_refl k) rfl

/-- A main loop that is free until a state that never comes is never kept waiting. -/
theorem IsRun.mainLoopEnabled_of_free {r : Nat → State} (hr : IsRun r) {stop : State → Prop} {k : Nat}
    (hfree : MainLoopFreeUntil stop r k) (hnever : ∀ j, k ≤ j → ¬ stop (r j)) (j : Nat) (hj : k ≤ j) :
    (r j).MainLoopEnabled := by
  obtain ⟨hlevel, hidle⟩ | hfree := hfree
  · exact hr.mainLoopEnabled_of_step_level hlevel hidle hj
  · exact hfree j hj fun m hm _ => hnever m hm

/-- Settles O56: were no POLL taken, the main loop would never be kept waiting, and would take one
(`IsRun.exists_pollNext`). -/
theorem mainLoopPollsAgainAndAgain : Obligations.MainLoopPollsAgainAndAgain := by
  intro r k hr hfree
  by_contra hnever
  push Not at hnever
  obtain ⟨j, hj, hpoll⟩ := hr.exists_pollNext (hr.mainLoopEnabled_of_free hfree hnever)
  exact hnever j hj hpoll

/-- A POLL deactivates a channel that, if active, has expired (R104, R178). -/
theorem not_activeAt_of_pollNext {s t : State} {i : Nat} (h : step s = .next t) (hpoll : s.PollNext) (hi : i < s.build.n)
    (hexpired : ∀ ch, s.chans[i]? = some ch → ch.active = true → expired s.clock ch.expiry = true) : ¬ t.ActiveAt i := by
  obtain ⟨hidle, hphase, hev⟩ := hpoll
  have hstep : step s = .next (polled s.takeEvent) := by
    rw [step_of_idle hidle, hev, deliver_of_decode (i := .poll) (by rw [takeEvent_phase, hphase]; rfl), exec_poll]
  cases h.symm.trans hstep
  rw [activeAt_polled_iff (s := s.takeEvent) hi]
  rintro ⟨ch, hch, hon, hfresh⟩
  rw [takeEvent_clock, hexpired ch hch hon] at hfresh
  cases hfresh

/-- Settles O57: were the channel active for ever, the main loop would take a POLL (`IsRun.exists_pollNext`) and deactivate
it (`not_activeAt_of_pollNext`). -/
theorem expiredChannelIsEventuallyDeactivated : Obligations.ExpiredChannelIsEventuallyDeactivated := by
  intro r k i hr hi hfree hexpired
  by_contra hnever
  push Not at hnever
  have hfree' := hr.mainLoopEnabled_of_free hfree fun j hj => not_not.mpr (hnever j hj)
  obtain ⟨j, hj, hpoll⟩ := hr.exists_pollNext hfree'
  have hbuild : (r j).build = (r k).build :=
    hr.keeps (P := fun s => s.build = (r k).build) (fun s t h hs => (step_build h).trans hs) rfl hj
  refine not_activeAt_of_pollNext (hr j) hpoll (hbuild ▸ hi) (fun ch hch _ => ?_) (hnever (j + 1) (by omega))
  exact hexpired j hj (fun m hm _ => hnever m hm) ch hch

theorem ticks_of_ne_clock {s : State} (h : ∀ δ, s.nextEvent ≠ .clock δ) : s.ticks = 0 := by
  unfold State.ticks
  split
  · exact absurd (by assumption) (h _)
  · rfl

theorem ticks_of_clock {s : State} {δ : Word} (h : s.nextEvent = .clock δ) : s.ticks = δ.toNat := by
  simp only [State.ticks, h]

/-- A step moves the clock by its ticks, unless it is a power cycle, after which nothing is active (R31, R230). -/
theorem clock_of_step {s t : State} (h : step s = .next t) :
    t.clock = s.clock + BitVec.ofNat 32 s.ticks ∨ ∀ i, ¬ t.ActiveAt i := by
  have hstill {u : State} (hclock : u.clock = s.clock) (hev : ∀ δ, s.nextEvent ≠ .clock δ) :
      u.clock = s.clock + BitVec.ofNat 32 s.ticks ∨ ∀ i, ¬ u.ActiveAt i := by
    rw [hclock, ticks_of_ne_clock hev]
    exact .inl (BitVec.add_zero s.clock).symm
  cases stepRule_of_step h with
  | pin es n hturn =>
    refine hstill (pinStep_clock _) fun δ hev => hturn ?_
    rw [hev, turn_clock]
  | clock δ hev =>
    left
    rw [ticks_of_clock hev, BitVec.ofNat_toNat, BitVec.setWidth_eq]
    rfl
  | power => exact .inr (not_activeAt_powerCycle _)
  | query hev => exact hstill rfl (by simp [hev])
  | discard _ hev => exact hstill rfl (by simp [hev])
  | activate _ c d hev => exact hstill (by simp) (by simp [hev])
  | poll hev => exact hstill rfl (by simp [hev])
  | renderWhole hev => exact hstill (renderWhole_clock s.takeEvent) (by simp [hev])
  | renderStart hev => exact hstill rfl (by simp [hev])

/-- Where channel `i` is active, its expiry is `e`, `a` milliseconds ago. -/
def State.ActiveSince (s : State) (i : Nat) (e : Word) (a : Nat) : Prop :=
  ∀ ch, s.chans[i]? = some ch → ch.active = true → ch.expiry = e ∧ (s.clock - e).toNat = a

/-- A channel active after a step that is no ACTIVATE of its own was active before it, with the same expiry (R108). -/
theorem exists_active_of_step {s t : State} {i : Nat} {ch : Chan} (h : step s = .next t) (hno : ¬ s.ActivatesNext i)
    (hch : t.chans[i]? = some ch) (hon : ch.active = true) :
    ∃ a, s.chans[i]? = some a ∧ a.active = true ∧ a.expiry = ch.expiry := by
  obtain hkept | ⟨hact, -⟩ | ⟨-, hoff⟩ | ⟨-, -, hswept⟩ := chan_of_step h i
  · exact ⟨ch, hkept ▸ hch, hon, rfl⟩
  · exact absurd hact hno
  · exact absurd ⟨ch, hch, hon⟩ hoff
  · rw [hch] at hswept
    obtain ⟨a, ha, rfl⟩ := Option.map_eq_some_iff.mp hswept.symm
    simp only [Chan.swept, Bool.and_eq_true] at hon
    exact ⟨a, ha, hon.1, rfl⟩

/-- A channel that is inactive stays so until it is activated (R108). -/
theorem not_activeAt_of_step {s t : State} {i : Nat} (h : step s = .next t) (hoff : ¬ s.ActiveAt i)
    (hno : ¬ s.ActivatesNext i) : ¬ t.ActiveAt i := by
  rintro ⟨ch, hch, hon⟩
  obtain ⟨a, ha, hona, -⟩ := exists_active_of_step h hno hch hon
  exact hoff ⟨a, ha, hona⟩

/-- A step that does not activate the channel lets its expiry grow older by the step's ticks, below the clock's wrap. -/
theorem activeSince_of_step {s t : State} {i : Nat} {e : Word} {a : Nat} (h : step s = .next t)
    (hs : s.ActiveSince i e a) (hno : ¬ s.ActivatesNext i) (hwrap : a + s.ticks < 2 ^ 31) :
    t.ActiveSince i e (a + s.ticks) := by
  intro ch hch hon
  obtain ⟨b, hb, honb, hexpiry⟩ := exists_active_of_step h hno hch hon
  obtain ⟨hbe, hage⟩ := hs b hb honb
  refine ⟨hexpiry.symm.trans hbe, ?_⟩
  obtain hclock | hoff := clock_of_step h
  · have hadd : s.clock + BitVec.ofNat 32 s.ticks - e = (s.clock - e) + BitVec.ofNat 32 s.ticks := add_sub_right_comm _ _ _
    rw [hclock, hadd, BitVec.toNat_add, hage, BitVec.toNat_ofNat]
    omega
  · exact absurd ⟨ch, hch, hon⟩ (hoff i)

/-- Over the steps of a run that do not activate the channel its expiry grows older by what elapses. -/
theorem IsRun.activeSince {r : Nat → State} (hr : IsRun r) {k n i : Nat} {e : Word} {a : Nat}
    (hk : (r k).ActiveSince i e a) (hwrap : a + elapsed r k n < 2 ^ 31)
    (hno : ∀ j, k ≤ j → j < k + n → ¬ (r j).ActivatesNext i) : (r (k + n)).ActiveSince i e (a + elapsed r k n) := by
  induction n with
  | zero => exact hk
  | succ n ih =>
    have helapsed : elapsed r k (n + 1) = elapsed r k n + (r (k + n)).ticks := rfl
    rw [helapsed, ← Nat.add_assoc a] at hwrap ⊢
    exact activeSince_of_step (hr (k + n)) (ih (by omega) fun j hj hlt => hno j hj (by omega))
      (hno (k + n) (by omega) (by omega)) hwrap

theorem elapsed_mono (r : Nat → State) (k : Nat) {m n : Nat} (h : m ≤ n) : elapsed r k m ≤ elapsed r k n := by
  induction n, h using Nat.le_induction with
  | base => exact Nat.le_refl _
  | succ n _ ih => exact ih.trans (Nat.le_add_right _ _)

/-- Settles O58: by the POLL that comes within the latency the expiry is at most `2^31 - 1` milliseconds old
(`IsRun.activeSince`), so that it deactivates the channel (`not_activeAt_of_pollNext`), which then stays inactive
(`not_activeAt_of_step`). -/
theorem expiredChannelIsOffWithinPollLatency : Obligations.ExpiredChannelIsOffWithinPollLatency := by
  intro r latency k n i ch hr hlatency hi hch hhorizon hlate hno
  obtain ⟨j, hkj, hjn, hpoll⟩ := hlatency n hlate
  have hsince : (r k).ActiveSince i ch.expiry ((r k).clock - ch.expiry).toNat := by
    intro a ha _
    cases hch.symm.trans ha
    exact ⟨rfl, rfl⟩
  obtain ⟨m, rfl⟩ := Nat.exists_eq_add_of_le hkj
  have hage : ((r k).clock - ch.expiry).toNat + elapsed r k m < 2 ^ 31 :=
    (Nat.add_le_add_left (elapsed_mono r k (by omega)) _).trans_lt hhorizon
  have hsince' := hr.activeSince hsince hage fun j hj hlt => hno j hj (by omega)
  have hbuild : (r (k + m)).build = (r k).build :=
    hr.keeps (P := fun s => s.build = (r k).build) (fun s t h hs => (step_build h).trans hs) rfl hkj
  have hoff : ¬ (r (k + m + 1)).ActiveAt i := by
    refine not_activeAt_of_pollNext (hr (k + m)) hpoll (hbuild ▸ hi) fun a ha hon => ?_
    obtain ⟨hexpiry, hold⟩ := hsince' a ha hon
    rw [hexpiry]
    exact decide_eq_true (hold ▸ hage)
  have hstays (j : Nat) (hj : k + m + 1 ≤ j) : j ≤ k + n → ¬ (r j).ActiveAt i := by
    induction j, hj using Nat.le_induction with
    | base => exact fun _ => hoff
    | succ j hj ih =>
      exact fun hle => not_activeAt_of_step (hr j) (ih (by omega)) (hno j (by omega) (by omega))
  exact hstays (k + n) (by omega) (Nat.le_refl _)

end Sys2Proof.Machine
